-- ==== Sys2Proof/Word.lean ====
section
/-! DEFINITION. The words the hub works in: bytes, command tags, samples, wire slots and exact ratios. -/

namespace Sys2Proof

/-- One byte of a hub message, of a surface packet or of a control-bus transaction. -/
abbrev Byte := BitVec 8

/-- A command tag, chosen by the computer and echoed in the reply (chapter 0, "Tags"). -/
abbrev Tag := BitVec 16

/-- A sample inside the part: a signed 24-bit integer (chapter 0, "Sample values"). -/
abbrev Sample := BitVec 24

/-- One slot of a converter port's wire frame: 32 bits, most significant bit first (R110). -/
abbrev SlotWord := BitVec 32

/-- An exact ratio `num / den`: a phase error in nominal frame periods (R4), a frequency correction (R2). -/
structure Ratio where
  num : Int
  den : Nat
deriving DecidableEq, Repr, Inhabited

end Sys2Proof
end

