-- ==== Sys2Proof/Syntax.lean ====
section
/-! DEFINITION. The commands of the block: one constructor of `Instr` for each row of spec/opcode_table.json, in the
table's order, and the types of their operands. A row that is a command of the computer carries its tag and its body bytes
as they travel (R186); a row that is an event carries what the manual takes as observed (a phase, a line's characters,
a device's acknowledges, elapsed cycles). -/

namespace Sys2Proof

/-- The three USB events that are a link reset (R184). -/
inductive LinkResetCause where
  | busReset
  | deconfiguration
  | suspend
deriving DecidableEq, Repr, Inhabited

/-- A reference event of the Media Clock (R4): a rising edge on WCKI, or a USB start-of-frame. `phase` is the signed time
from the point the event is paired with to the event, in nominal frame periods ("taken as observed", R2); it is
negative when the event comes before that point. `cycles` counts XB cycles since the previous edge. -/
inductive RefEvent where
  | wcki (phase : Ratio) (cycles : Nat)
  | sof (frame : BitVec 11) (phase : Ratio)
deriving DecidableEq, Repr, Inhabited

/-- One character of an answer as the part receives it (R134, R136). -/
structure LineChar where
  byte : Byte
  /-- its stop bit was sampled high -/
  stopHigh : Bool
  /-- more than 20 µs of idle line lay between the character before it and this one -/
  gapBefore : Bool
deriving DecidableEq, Repr, Inhabited

/-- What the line showed after the part's packet (R136). No character at all is a timeout. -/
structure LineAnswer where
  chars : List LineChar
  /-- a start bit came within 20 µs after the last character of the declared packet -/
  startAfter : Bool
  /-- the line was not idle for 20 µs within 1 ms of the answer's first start bit -/
  neverIdle : Bool
deriving DecidableEq, Repr, Inhabited

/-- How a transaction on the control bus came out (R123). A READ sends two address bytes; `second` tells that the one after
the repeated start was not acknowledged. -/
inductive TxOutcome where
  | done (read : List Byte)
  | noAckAddress (second : Bool)
  | noAckData (index : Nat)
deriving DecidableEq, Repr, Inhabited

/-- How far the part had got on the control bus when a job ended before its time (R129 to R131, R133). In a recovery `items` counts
the clock pulses whose high phase was seen; in a transaction it counts what is complete on the lines after the start condition: bytes
with their acknowledge slots, and a repeated start. -/
structure BusProgress where
  items : Nat
  /-- the last of them, if it is a byte the part sent, was acknowledged -/
  acked : Bool
  /-- the bytes the part has read -/
  read : List Byte
  /-- bits of the next byte that are on the lines at a stuck line, the acknowledge slot its ninth -/
  bits : Nat
deriving DecidableEq, Repr, Inhabited

/-- The commands and events that reach the block. `mCycles` is the cycles of M that pass between whatever was taken before an event and
the event itself; a row without that operand takes no time (R19, R20). -/
inductive Instr where
  | powerOnReset
  | resetNRelease
  | frameBoundary (mCycles : Nat) (wire : List (List SlotWord))
  | crystalSwitchDone
  | wckiEdge (phase : Ratio) (cycles : Nat)
  | rateMeasurementComplete (phase : Ratio) (cycles : Nat)
  | acquireLock (ev : RefEvent)
  | referenceTimeout
  | acquireTimeout
  | linkCorrectionRecord (frame : BitVec 11) (phase : Ratio)
  | linkReferenceReturn (frame : BitVec 11) (phase : Ratio)
  | startOfFrame (frame : BitVec 11) (phase : Ratio)
  | setClock (tag : Tag) (body : List Byte)
  | getClock (tag : Tag) (body : List Byte)
  | setClockOutput (tag : Tag) (body : List Byte)
  | clockOutputStart (output : Nat) (mCycles : Nat)
  | clockOutputPeriodEnd (output : Nat) (mCycles : Nat) (atFrame : Bool)
  | getOutputs (tag : Tag) (body : List Byte)
  | setTally (tag : Tag) (body : List Byte)
  | runTally (tag : Tag) (body : List Byte)
  | stopTally (tag : Tag) (body : List Byte)
  | defineStream (tag : Tag) (body : List Byte)
  | armStream (tag : Tag) (body : List Byte)
  | triggerStream (tag : Tag) (body : List Byte)
  | stopStream (tag : Tag) (body : List Byte)
  | deleteStream (tag : Tag) (body : List Byte)
  | getStream (tag : Tag) (body : List Byte)
  | getPool (tag : Tag) (body : List Byte)
  | playBlock (body : List Byte)
  | postCue (tag : Tag) (body : List Byte)
  | cancelCue (tag : Tag) (body : List Byte)
  | listCues (tag : Tag) (body : List Byte)
  | flushCues (tag : Tag) (body : List Byte)
  | configurePort (tag : Tag) (body : List Byte)
  | setInitList (tag : Tag) (body : List Byte)
  | startPort (tag : Tag) (body : List Byte)
  | stopPort (tag : Tag) (body : List Byte)
  | getPort (tag : Tag) (body : List Byte)
  | portSettled (port : Nat)
  | converterXfer (tag : Tag) (body : List Byte)
  | abortXfer (tag : Tag) (body : List Byte)
  | getControlBus (tag : Tag) (body : List Byte)
  | transactionEnd (outcome : TxOutcome)
  | markedJobEnd (progress : Option BusProgress := none)
  | busStuck (progress : Option BusProgress := none)
  | busRecoveryEnd (bothHigh : Bool) (pulses : Nat := 9)
  | busReleaseEnd (progress : Option BusProgress := none)
  | roundStart
  | visitStart
  | reportReceived
  | answerTimeout
  | resetExchangeEnd (answer : LineAnswer)
  | writeExchangeEnd (answer : LineAnswer)
  | pollExchangeEnd (answer : LineAnswer)
  | probeEnd (answer : LineAnswer)
  | resetVisitEnd (answer : LineAnswer)
  | setNode (tag : Tag) (body : List Byte)
  | resetNode (tag : Tag) (body : List Byte)
  | surfaceWrite (tag : Tag) (body : List Byte)
  | getNode (tag : Tag) (body : List Byte)
  | setBinding (tag : Tag) (body : List Byte)
  | clearBinding (tag : Tag) (body : List Byte)
  | listBindings (tag : Tag) (body : List Byte)
  | setMeter (tag : Tag) (body : List Byte)
  | setMeterDisplay (tag : Tag) (body : List Byte)
  | readMeters (tag : Tag) (body : List Byte)
  | clearMeters (tag : Tag) (body : List Byte)
  | outPacket (bytes : List Byte)
  | unknownCommand (code : Byte) (tag : Tag) (body : List Byte)
  | dispatchResume
  | transmitTake
  | messageSent
  | describe (tag : Tag) (body : List Byte)
  | resetPart (tag : Tag) (body : List Byte)
  | linkReset (cause : LinkResetCause)
  | configuration
  | resume
deriving DecidableEq, Repr, Inhabited

end Sys2Proof
end

