-- ==== Sys2Proof/Config.lean ====
section
/-! DEFINITION. Capacities the part fixes (chapter 0, CAPACITIES; R182) and the FREE VALUES the manual leaves open.
A free value is an opaque constant without a body: no proof can see what it is. -/

namespace Sys2Proof.Config

def nStreams : Nat := 16
def nChannels : Nat := 16
def poolPages : Nat := 256
def pageWords : Nat := 1024
def nMarks : Nat := 4
def cueCapacity : Nat := 64
def nPorts : Nat := 6
def nSlots : Nat := 8
def initCapacity : Nat := 16
def busWaiting : Nat := 8
def nNodes : Nat := 16
def queueCapacity : Nat := 32
def nControls : Nat := 64
def nBindings : Nat := 32
def nMeters : Nat := 32
def nOutputs : Nat := 4
def nTallies : Nat := 4
def nEntries : Nat := 16
def noticeCapacity : Nat := 32
def maxBody : Nat := 16400
/-- The number of timeline positions, 2^48 (chapter 0, "Timeline position"). -/
def positions : Nat := 281474976710656

/-- FREE VALUE (R2: "How the correction is chosen within these limits is not specified"): the correction the
Media Clock steers to at its n-th draw. The model clamps it to the pull range, the one limit the manual sets. -/
opaque steeredCorrection : Nat → Ratio

/-- FREE VALUE (R154): how many bit times of the packet being sent had passed at a RESET_PART that cuts it short. Nothing the part
takes tells it. Argument: draw. -/
opaque bitsSent : Nat → Nat

/-- FREE VALUE (R119): what a CAPTURE port that is RUNNING yields for a slot when its clocks did not run during the
wire frame before ("a port that was OFF during the wire frame before p shifted in nothing"). Arguments: draw, port, slot. -/
opaque unshiftedSample : Nat → Nat → Nat → Sample

end Sys2Proof.Config
end

