-- ==== Sys2Proof/Machine/State.lean ====
section
/-! DEFINITION. The state of the hub as plain data, block by block, with its value after power-on reset, and the reasons
a command can stop. Counts, positions and indexes are `Nat`; what the manual treats as bits is a `BitVec`. -/

namespace Sys2Proof.Machine

/-! ### Media Clock (chapter 1) -/

/-- Clock sources (R4). -/
inductive Source where
  | internal
  | wordIn
  | linkFrame
deriving DecidableEq, Repr, Inhabited

/-- The six sample rates (R3). -/
inductive Rate where
  | r44
  | r48
  | r88
  | r96
  | r176
  | r192
deriving DecidableEq, Repr, Inhabited

/-- The crystal of a sample-rate family (R3). -/
inductive Family where
  | xa
  | xb
deriving DecidableEq, Repr, Inhabited

/-- Clock states (chapter 1, CLOCK STATES). -/
inductive ClockState where
  | internal
  | acquiring
  | locked
  | holdover
deriving DecidableEq, Repr, Inhabited

/-- Reasons of a CLOCK_STATE notice (R11). -/
inductive ClockReason where
  | locked
  | referenceLost
  | noReference
  | rateMismatch
  | acquireTimeout
  | sourceChanged
deriving DecidableEq, Repr, Inhabited

/-- A rate measurement in progress: edges counted since its first one, and XB cycles counted (R6). -/
structure Measurement where
  edges : Nat
  count : Nat
deriving DecidableEq, Repr, Inhabited

/-- The Media Clock's state (R1, R2, R5 to R10, R18). -/
structure MediaClock where
  /-- the timeline position N -/
  n : Nat
  source : Source
  rate : Rate
  state : ClockState
  /-- the detected rate; `none` is UNKNOWN -/
  detected : Option Rate
  /-- the held correction -/
  held : Ratio
  /-- the correction steered to in ACQUIRING and LOCKED -/
  steered : Ratio
  lockRun : Nat
  /-- the acquisition timer, in ms, as last known: `none` is stopped -/
  timer : Option Nat
  /-- the matching-measurement record of this entry into ACQUIRING -/
  matched : Bool
  measurement : Option Measurement
  /-- the correction in force over the measurement in progress: its sum over the XB cycles counted (R9) -/
  window : Ratio
  /-- LINK_FRAME: reference events counted in LOCKED (R9) or consecutively in HOLDOVER (R10) -/
  refRun : Nat
  /-- LINK_FRAME: the anchor's position (R4) -/
  anchor : Option Nat
  /-- LINK_FRAME: link frames since the anchor's event (R4) -/
  sinceAnchor : Nat
  /-- a crystal switch is in progress (R3) -/
  switching : Bool
deriving DecidableEq, Repr, Inhabited

/-! ### Clock Output Unit and Tally Units (chapter 2) -/

/-- Choices of a clock output (R19). -/
inductive Choice where
  | off
  | m
  | m2
  | m4
  | m8
  | m16
  | word
deriving DecidableEq, Repr, Inhabited

/-- Output states (chapter 2, OUTPUT STATES). -/
inductive OutState where
  | quiet
  | starting
  | running
  | closing
  | paused
deriving DecidableEq, Repr, Inhabited

/-- A rate change that reached an output whose period was in progress, and is still to act at that period's end (R24). -/
inductive PendingChange where
  | none
  | within
  | across
deriving DecidableEq, Repr, Inhabited

/-- A setting of a clock output: choice and inversion. -/
structure OutSetting where
  choice : Choice
  inv : Bool
deriving DecidableEq, Repr, Inhabited

/-- One clock output (R19 to R25). -/
structure ClockOut where
  choice : Choice
  inv : Bool
  enable : Bool
  state : OutState
  staged : Option OutSetting
  /-- the choice and inversion of the period in progress, when one is -/
  period : Option OutSetting
  change : PendingChange
  /-- cycles of M since the pin's level last changed, while no period is in progress (R20) -/
  heldCycles : Nat
  /-- cycles of M since the period in progress began; for M/k, since RUNNING was entered with this setting (R19) -/
  elapsed : Nat
  /-- STARTING was entered from RUNNING with the inversion kept: the whole-period wait does not apply (R20, R22) -/
  noWait : Bool
deriving DecidableEq, Repr, Inhabited

/-- The Clock Output Unit. -/
structure OutputUnit where
  /-- the divider counter, 0 to 15, as last brought up to date (R19) -/
  divider : Nat
  /-- the next frame boundary sets the divider counter to 0 (R19) -/
  zeroNext : Bool
  /-- the next frame boundary is the first at the rate of a cross-family change (R24) -/
  switchPending : Bool
  /-- cycles of M since the last frame boundary; `none` while the frame in progress is one that a reset or a rate change abandoned -/
  sinceFrame : Option Nat
  outs : List ClockOut
deriving DecidableEq, Repr, Inhabited

/-- Tally modes and polarities (R26). -/
inductive TallyMode where
  | oneshot
  | periodic
deriving DecidableEq, Repr, Inhabited

inductive Polarity where
  | activeHigh
  | activeLow
deriving DecidableEq, Repr, Inhabited

/-- A tally unit's settings record (R26); `period` is T, held for PERIODIC. -/
structure TallySettings where
  mode : TallyMode
  start : Nat
  width : Nat
  period : Nat
  polarity : Polarity
deriving DecidableEq, Repr, Inhabited

inductive TallyState where
  | stopped
  | waiting
  | active
  | resting
deriving DecidableEq, Repr, Inhabited

/-- One tally unit (R26 to R30). `edge` is the position of the boundary at which it next changes; `pin` the level of TLYn. -/
structure Tally where
  settings : Option TallySettings
  staged : Option TallySettings
  state : TallyState
  edge : Option Nat
  pin : Bool
deriving DecidableEq, Repr, Inhabited

/-! ### Stream Engine (chapters 3 to 5) -/

inductive Direction where
  | play
  | capture
deriving DecidableEq, Repr, Inhabited

inductive Format where
  | s16
  | s24
  | s32
deriving DecidableEq, Repr, Inhabited

/-- Fill policy of a PLAY stream (R33, R63). -/
inductive Fill where
  | silence
  | hold (limit : Nat)
deriving DecidableEq, Repr, Inhabited

inductive RunLength where
  | continuous
  | counted (frames : Nat)
deriving DecidableEq, Repr, Inhabited

/-- A port's slot. -/
structure PortSlot where
  port : Nat
  slot : Nat
deriving DecidableEq, Repr, Inhabited

/-- A level watch (R33, R75). -/
structure Watch where
  meter : Nat
  threshold : Nat
deriving DecidableEq, Repr, Inhabited

/-- A stream descriptor (R33). Fields the direction does not use are absent. -/
structure Descriptor where
  direction : Direction
  map : List PortSlot
  format : Format
  capacity : Nat
  block : Option Nat
  fill : Option Fill
  run : RunLength
  preRoll : Option Nat
  watch : Option Watch
  reload : Nat
deriving DecidableEq, Repr, Inhabited

inductive StreamState where
  | idle
  | armed
  | running
  | draining
  | halted
deriving DecidableEq, Repr, Inhabited

/-- Reasons of a STREAM_STATE notice (R45). -/
inductive StreamReason where
  | arm
  | triggerCommand
  | triggerCue
  | triggerBinding
  | triggerLevel
  | stopped
  | countDone
  | abandoned
  | allowance
deriving DecidableEq, Repr, Inhabited

/-- A defined stream: its descriptor, page run, runtime record (R38) and ring marks (R37). -/
structure Stream where
  desc : Descriptor
  firstPage : Nat
  pageCount : Nat
  state : StreamState
  allowance : Nat
  arm : Option Nat
  /-- S -/
  start : Option Nat
  /-- E -/
  stop : Option Nat
  /-- the reason that goes with the E in force (R42) -/
  stopReason : StreamReason
  clamped : Bool
  /-- E was raised to Dp (R81) -/
  raised : Bool
  /-- PLAY: mute -/
  muted : Bool
  /-- PLAY: report marks, ascending (R57) -/
  marks : List Nat
  /-- PLAY: last output value of each channel (R62) -/
  lastOut : List Sample
  /-- PLAY: gap run (R63) -/
  gapRun : Nat
  /-- PLAY: the ring slots marked written, each with the position it holds (R50), slots ascending -/
  written : List (Nat × Nat)
  /-- CAPTURE: Dp -/
  dp : Option Nat
  /-- CAPTURE: DISCONTINUITY pending -/
  disc : Bool
  /-- CAPTURE: the ring slots that carry the not-running mark (R72), ascending -/
  notRunning : List Nat
  /-- CAPTURE: the ring holds the positions `ringLow` to `ringHigh - 1` (R73) -/
  ringLow : Nat
  ringHigh : Nat
deriving DecidableEq, Repr, Inhabited

/-- A claim on a playback slot, naming the stream that holds it (R35). -/
structure Claim where
  place : PortSlot
  stream : Nat
deriving DecidableEq, Repr, Inhabited

/-- A sample the Stream Engine settled for a claimed slot of the frame in progress (R60, R62). -/
structure Settled where
  place : PortSlot
  value : Sample
deriving DecidableEq, Repr, Inhabited

/-- The Stream Engine. `pool` lists the sample words of the pool that are not 0, by word address, rising. -/
structure StreamEngine where
  streams : List (Option Stream)
  /-- the page map: the stream that holds each page, or FREE (R36) -/
  pages : List (Option Nat)
  claims : List Claim
  pool : List (Nat × Sample)
  settled : List Settled
deriving DecidableEq, Repr, Inhabited

/-! ### Cue Queue (chapter 6) -/

/-- Setting kinds the part sends to a node (R135). -/
inductive SettingKind where
  | led
  | motor
  | meter
deriving DecidableEq, Repr, Inhabited

/-- Cue actions with their parameters (R90). -/
inductive CueAction where
  | streamTrigger (stream : Nat)
  | streamStop (stream : Nat)
  | streamMute (stream : Nat) (on : Bool)
  | converterWrite (addr : Nat) (data : List Byte)
  | surfaceWrite (node control : Nat) (kind : SettingKind) (value : Nat)
  | clockOutput (output : Nat) (enable : Bool)
  | tallyRun (unit : Nat)
  | tallyStop (unit : Nat)
  | clearClips
deriving DecidableEq, Repr, Inhabited

inductive LatePolicy where
  | fire
  | drop
deriving DecidableEq, Repr, Inhabited

/-- A cue entry (R90). -/
structure CueEntry where
  tag : Nat
  due : Nat
  action : CueAction
  policy : LatePolicy
  notify : Bool
  interval : Nat
  repeats : Nat
deriving DecidableEq, Repr, Inhabited

/-- Results of a cue firing (chapter 6, ACTIONS AND THEIR RESULTS). -/
inductive CueResult where
  | ok
  | noSuch
  | notApplicable
  | queueFull
  | nodeNotOnline
  | noAckAddress
  | noAckData
  | busStuck
deriving DecidableEq, Repr, Inhabited

inductive FlushCause where
  | rateChange
  | command
deriving DecidableEq, Repr, Inhabited

/-! ### Converter Ports (chapter 7) -/

inductive Role where
  | unused
  | capture
  | playback
deriving DecidableEq, Repr, Inhabited

inductive PortState where
  | off
  | init
  | settling
  | running
  | fault
deriving DecidableEq, Repr, Inhabited

/-- Reasons of a PORT_STATE notice (R120). -/
inductive PortReason where
  | start
  | initDone
  | settled
  | stopped
  | noAckAddress
  | noAckData
  | busStuck
deriving DecidableEq, Repr, Inhabited

/-- An init list entry (R112). -/
structure InitEntry where
  addr : Nat
  reg : Byte
  value : Byte
  enabled : Bool
deriving DecidableEq, Repr, Inhabited

/-- A port's last failure (R108, R114); `byteIndex` counts for NO_ACK_DATA. -/
structure PortFailure where
  entry : Nat
  reason : PortReason
  byteIndex : Nat
deriving DecidableEq, Repr, Inhabited

/-- A converter port (R108), with what its pins exchange for the frame in progress (R109, R118, R119). -/
structure Port where
  role : Role
  slots : Nat
  settle : Nat
  initList : List InitEntry
  state : PortState
  remaining : Option Nat
  failure : Option PortFailure
  /-- BCK and FSY run: a wire frame is in progress -/
  clocked : Bool
  /-- PLAYBACK: the slots shifted out in the wire frame in progress -/
  sdOut : List SlotWord
  /-- CAPTURE: the samples yielded for the frame in progress -/
  yielded : List Sample
  /-- CAPTURE: the frame in progress was yielded while not RUNNING -/
  yieldIdle : Bool
deriving DecidableEq, Repr, Inhabited

/-! ### Control Bus Engine (chapter 8) -/

/-- A transaction (R123). -/
inductive Transaction where
  | write (addr : Nat) (data : List Byte)
  | read (addr : Nat) (reg : Byte) (count : Nat)
  | probe (addr : Nat)
deriving DecidableEq, Repr, Inhabited

/-- What the part puts on the control bus (R122, R123, R130, R131). A byte goes with its acknowledge slot: `acked` tells whether the
receiving side held CSDA low in it, the device for a byte sent and the part for a byte received. -/
inductive BusItem where
  | start
  | repeatedStart
  | sent (byte : Byte) (acked : Bool)
  | received (byte : Byte) (acked : Bool)
  /-- a byte the part was sending, broken off by a stuck line after some of its bits; the ninth is its acknowledge slot -/
  | cutSent (byte : Byte) (bits : Nat)
  /-- a byte the part was reading, broken off likewise; in its acknowledge slot the part was to acknowledge it or not -/
  | cutReceived (bits : Nat) (acked : Bool)
  /-- one clock pulse of a recovery, CSDA released -/
  | pulse
  | stop
  /-- both lines released without a stop condition -/
  | released
deriving DecidableEq, Repr, Inhabited

/-- One enabled init entry of an INIT job, with its index in the port's list (R114). -/
structure InitWrite where
  index : Nat
  addr : Nat
  reg : Byte
  value : Byte
deriving DecidableEq, Repr, Inhabited

/-- Job kinds and what they carry (R124). `entry` is the reply entry of the command. -/
inductive JobKind where
  | xfer (tag : Tag) (entry : Nat) (tx : Transaction)
  | cue (tag due fire : Nat) (notify late skipped : Bool) (addr : Nat) (data : List Byte)
  | init (port : Nat) (writes : List InitWrite) (detached : Bool)
deriving DecidableEq, Repr, Inhabited

/-- What the part does with the two open-drain lines: it pulls CSCL or CSDA low, or releases it (R122). -/
structure BusDrive where
  sclLow : Bool
  sdaLow : Bool
deriving DecidableEq, Repr, Inhabited

/-- A job: kind, ending mark, whether it is in recovery, and how many of its transactions are done. -/
structure Job where
  kind : JobKind
  ending : Bool
  recovery : Bool
  done : Nat
deriving DecidableEq, Repr, Inhabited

/-- The Control Bus Engine (R124, R130, R133). -/
structure ControlBus where
  /-- the bus condition is STUCK -/
  stuck : Bool
  active : Option Job
  waiting : List Job
  /-- the job that RESET_PART dropped, while its ending, which is the release of the bus, goes on (R133) -/
  release : Option Job
  /-- what the part last put on the lines: a transaction, a recovery, or as much of one as an early ending left (R123, R129 to R131) -/
  lastWire : List BusItem
deriving DecidableEq, Repr, Inhabited

/-! ### Surface Controller (chapters 9 and 10) -/

inductive NodeState where
  | disabled
  | online
  | offline
  | halted
deriving DecidableEq, Repr, Inhabited

inductive NodeReason where
  | allowance
  | babble
  | halted
  | recovered
  | resetOk
deriving DecidableEq, Repr, Inhabited

/-- A setting in a node's write queue (R151). -/
structure Setting where
  control : Nat
  kind : SettingKind
  value : Nat
  inFlight : Bool
  replaced : Bool
deriving DecidableEq, Repr, Inhabited

/-- A RESET_NODE command waiting for its reply (R150). -/
structure ResetCommand where
  tag : Tag
  entry : Nat
deriving DecidableEq, Repr, Inhabited

/-- A node record (R137). The tables list the controls touched and pressed, ascending. -/
structure Node where
  state : NodeState
  reload : Nat
  allowance : Nat
  forward : Bool
  toggle : Bool
  resetPending : Bool
  resetCommand : Option ResetCommand
  queue : List Setting
  touched : List Nat
  pressed : List Nat
  rounds : Nat
deriving DecidableEq, Repr, Inhabited

inductive Edge where
  | press
  | release
deriving DecidableEq, Repr, Inhabited

/-- A (node, control) pair. -/
structure ControlRef where
  node : Nat
  control : Nat
deriving DecidableEq, Repr, Inhabited

inductive BindingAction where
  | streamTrigger (stream : Nat)
  | streamStop (stream : Nat)
  | streamMuteToggle (stream : Nat)
  | clearClips
  | cueFire (tag : Nat)
deriving DecidableEq, Repr, Inhabited

/-- An occupied binding entry (R160). -/
structure Binding where
  key : ControlRef
  edge : Edge
  qualifier : Option ControlRef
  action : BindingAction
deriving DecidableEq, Repr, Inhabited

/-- The exchanges of the poll round (R140, R147, R150). -/
inductive ExchangeKind where
  | reset
  | write
  | poll
  | probe
  | resetVisit
deriving DecidableEq, Repr, Inhabited

/-- The exchange in progress. -/
structure Exchange where
  node : Nat
  kind : ExchangeKind
  /-- the node was disabled during it: its outcome is discarded (R149) -/
  discarded : Bool
  /-- the node's reset command was present when the visit began (R150) -/
  forCommand : Bool
  /-- N at the receipt of the report's last character (R155) -/
  stamp : Option Nat
deriving DecidableEq, Repr, Inhabited

/-- The Surface Controller. -/
structure Surface where
  nodes : List Node
  bindings : List (Option Binding)
  /-- the next address of the round in progress, 1 to 16; 17 when the round has passed them all -/
  cursor : Nat
  exchange : Option Exchange
  /-- the characters of the last packet the part sent -/
  lastSent : List Byte
deriving DecidableEq, Repr, Inhabited

/-! ### Meter Unit (chapter 11) -/

/-- A display binding (R164). -/
structure Display where
  node : Nat
  control : Nat
  segments : Nat
deriving DecidableEq, Repr, Inhabited

/-- A meter record (R164). -/
structure Meter where
  source : Option PortSlot
  hold : Nat
  decay : Nat
  threshold : Nat
  clipRun : Nat
  d16 : Nat
  holdCount : Nat
  maxIndex : Nat
  clipped : Bool
  run : Nat
  peak : Nat
  display : Option Display
  posted : Option Nat
deriving DecidableEq, Repr, Inhabited

/-! ### Link Interface (chapter 12) -/

/-- Reply statuses (R176). -/
inductive Status where
  | ok
  | malformed
  | unknownCommand
  | badValue
  | noSuch
  | busy
  | full
  | conflict
  | late
  | aborted
  | noAckAddress
  | noAckData (index : Nat)
  | busStuck
  | noResponse
deriving DecidableEq, Repr, Inhabited

/-- A ready reply (R176): code and tag of its command, status, and result fields as they travel. -/
structure Reply where
  code : Byte
  tag : Tag
  status : Status
  fields : List Byte
deriving DecidableEq, Repr, Inhabited

inductive BlockReason where
  | noStream
  | notArmed
  | malformed
  | late
  | early
  | headTrimmed
  | tailTruncated
deriving DecidableEq, Repr, Inhabited

inductive LinkErrorKind where
  | badCheck
  | badKind
  | tooLong
  | truncated
deriving DecidableEq, Repr, Inhabited

/-- Event kinds a node reports (R135, R156). -/
inductive EventKind where
  | fader
  | touch
  | button
  | encoder
deriving DecidableEq, Repr, Inhabited

/-- The fields of a notice by kind (R186). -/
inductive NoticeBody where
  | clockState (state : ClockState) (source : Source) (rate : Rate) (detected : Option Rate) (reason : ClockReason)
  | streamState (stream : Nat) (state : StreamState) (reason : StreamReason) (clamped raised : Bool)
      (start stop : Option Nat)
  | streamGap (stream first total : Nat)
  | blockRefused (stream : Nat) (reason : BlockReason) (start frames : Nat)
  | played (stream position : Nat)
  | cueFired (tag due fire : Nat) (result : CueResult) (byteIndex : Nat) (late skipped : Bool)
  | cueFlushed (count : Nat) (cause : FlushCause)
  | portState (port : Nat) (state : PortState) (reason : PortReason) (entry : Option Nat) (byteIndex : Nat)
  | nodeState (node : Nat) (state : NodeState) (reason : NodeReason)
  | surfaceEvent (node control : Nat) (kind : EventKind) (value : Int) (stamp : Nat) (bound : Bool)
  | clip (meter position : Nat)
  | linkError (kind : LinkErrorKind)
deriving DecidableEq, Repr, Inhabited

/-- A notice with its own stamp (R180). -/
structure Notice where
  stamp : Nat
  body : NoticeBody
deriving DecidableEq, Repr, Inhabited

/-- Coalescing keys of the notice queue (R180). -/
inductive NoticeKey where
  | clockState
  | streamGap (stream : Nat)
  | blockRefused (stream : Nat) (reason : BlockReason)
  | played (stream : Nat)
  | surface (node control : Nat) (kind : EventKind)
  | clip (meter : Nat)
  | linkError
deriving DecidableEq, Repr, Inhabited

/-- What a message being sent is (R178, R179). -/
inductive SentKind where
  | reply
  | captureBlock
  | notice
deriving DecidableEq, Repr, Inhabited

/-- The message being sent: its kind and all its bytes, fixed at the taking. -/
structure Sending where
  kind : SentKind
  bytes : List Byte
deriving DecidableEq, Repr, Inhabited

/-- A command whose body is complete, at which dispatch has paused (R177). -/
structure WaitingCommand where
  code : Byte
  tag : Tag
  body : List Byte
deriving DecidableEq, Repr, Inhabited

/-- What the assembly does with the next byte (R174). -/
inductive Assembly where
  /-- header or body bytes so far -/
  | gather (bytes : List Byte)
  /-- a BAD_KIND body is skipped: bytes left -/
  | skip (left : Nat)
  /-- the rest of the transfer is discarded -/
  | discard
deriving DecidableEq, Repr, Inhabited

/-- The link-frame mark (R16). -/
structure LinkMark where
  frame : BitVec 11
  position : Nat
deriving DecidableEq, Repr, Inhabited

/-- The Link Interface (R16, R174 to R184). -/
structure Link where
  configured : Bool
  /-- the link is suspended and was configured when the suspend began (R184) -/
  suspended : Bool
  mark : LinkMark
  /-- the number of the last start-of-frame taken -/
  lastFrame : Option (BitVec 11)
  assembly : Assembly
  /-- the command at which dispatch has paused (R177) -/
  paused : Option WaitingCommand
  /-- bytes accepted and waiting behind the paused command -/
  behind : List Byte
  /-- the transfer of those bytes has ended with them -/
  behindEnds : Bool
  /-- the reply entries held by commands in progress -/
  held : List Nat
  /-- the reply queue, oldest first; each reply holds an entry -/
  replies : List Reply
  /-- MODEL's own: the number of the next reply entry taken -/
  serial : Nat
  /-- the notice queue, oldest first -/
  notices : List Notice
  lost : Bool
  /-- the arbiter's count of capture blocks since the last notice (R178) -/
  count : Nat
  sending : Option Sending
deriving DecidableEq, Repr, Inhabited

/-! ### The machine -/

/-- All the hub's state. -/
structure Hub where
  /-- the RESET_N pin is high -/
  resetN : Bool
  clock : MediaClock
  outputs : OutputUnit
  tallies : List Tally
  engine : StreamEngine
  cues : List CueEntry
  ports : List Port
  bus : ControlBus
  surface : Surface
  meters : List Meter
  link : Link
  /-- MODEL's own: how many free values have been drawn -/
  draws : Nat
deriving DecidableEq, Repr, Inhabited

/-- The machine: the hub, and the commands that wait, first in, first out. -/
structure State where
  hub : Hub
  pending : List Instr
deriving DecidableEq, Repr, Inhabited

/-- No command of this block ends in a fault: the manual names none, so the type has no constructor. Safe. -/
inductive Fault where
deriving DecidableEq, Repr

/-- Why a command has no meaning. `exec` raises `notModelled` in a refused arm, and no arm of this model is refused. Safe. -/
inductive Refusal where
  | notModelled (mnemonic : String)
deriving DecidableEq, Repr

/-! ### Reset values -/

/-- The nominal correction, 1. -/
def nominal : Ratio := ⟨1, 1⟩

/-- R18. -/
def MediaClock.reset : MediaClock :=
  { n := 0, source := .internal, rate := .r48, state := .internal, detected := some .r48, held := nominal,
    steered := nominal, lockRun := 0, timer := none, matched := false, measurement := none, window := ⟨0, 1⟩, refRun := 0,
    anchor := none, sinceAnchor := 0, switching := false }

/-- R25. -/
def ClockOut.reset : ClockOut :=
  { choice := .off, inv := false, enable := false, state := .quiet, staged := none, period := none,
    change := .none, heldCycles := 0, elapsed := 0, noWait := false }

/-- R19, R25. -/
def OutputUnit.reset : OutputUnit :=
  { divider := 0, zeroNext := true, switchPending := false, sinceFrame := none, outs := List.replicate Config.nOutputs ClockOut.reset }

/-- R30. -/
def Tally.reset : Tally :=
  { settings := none, staged := none, state := .stopped, edge := none, pin := false }

/-- R32, R36. -/
def StreamEngine.reset : StreamEngine :=
  { streams := List.replicate Config.nStreams none, pages := List.replicate Config.poolPages none, claims := [],
    pool := [], settled := [] }

/-- R108. -/
def Port.reset : Port :=
  { role := .unused, slots := 2, settle := 0, initList := [], state := .off, remaining := none, failure := none,
    clocked := false, sdOut := [], yielded := [], yieldIdle := true }

/-- R133. -/
def ControlBus.reset : ControlBus :=
  { stuck := false, active := none, waiting := [], release := none, lastWire := [] }

/-- R137. -/
def Node.reset : Node :=
  { state := .disabled, reload := 3, allowance := 3, forward := true, toggle := false, resetPending := false,
    resetCommand := none, queue := [], touched := [], pressed := [], rounds := 0 }

/-- R137, R154, R160. -/
def Surface.reset : Surface :=
  { nodes := List.replicate Config.nNodes Node.reset, bindings := List.replicate Config.nBindings none,
    cursor := 17, exchange := none, lastSent := [] }

/-- R164. -/
def Meter.reset : Meter :=
  { source := none, hold := 20, decay := 2, threshold := 8388607, clipRun := 3, d16 := 0, holdCount := 0, maxIndex := 0,
    clipped := false, run := 0, peak := 0, display := none, posted := none }

/-- R16, R183. -/
def Link.reset : Link :=
  { configured := false, suspended := false, mark := ⟨0, 0⟩, lastFrame := none, assembly := .gather [],
    paused := none, behind := [], behindEnds := false, held := [], replies := [], serial := 0, notices := [],
    lost := false, count := 0, sending := none }

/-- Every block at its power-on reset values, with RESET_N low. -/
def Hub.reset : Hub :=
  { resetN := false, clock := MediaClock.reset, outputs := OutputUnit.reset,
    tallies := List.replicate Config.nTallies Tally.reset, engine := StreamEngine.reset, cues := [],
    ports := List.replicate Config.nPorts Port.reset, bus := ControlBus.reset, surface := Surface.reset,
    meters := List.replicate Config.nMeters Meter.reset, link := Link.reset, draws := 0 }

/-- The machine right after power-on reset: every block at its reset values, and no command waiting. -/
def State.reset : State := { hub := Hub.reset, pending := [] }

end Sys2Proof.Machine
end

