-- ==== Sys2Proof/Machine/Ops.lean ====
section
/-! DEFINITION. The shared operations: sparse word memory, sorted sets, the blocks' places in `Hub`, posting a notice (R180),
holding and answering a reply entry (R176, R177). -/

namespace Sys2Proof.Machine

/-! ### Sparse cells and sorted sets -/

/-- The value listed for a key. -/
def cellGet {α : Type} : List (Nat × α) → Nat → Option α
  | [], _ => none
  | (k, v) :: rest, a => if a = k then some v else cellGet rest a

/-- List a value for a key, keeping the keys rising. -/
def cellPut {α : Type} : List (Nat × α) → Nat → α → List (Nat × α)
  | [], a, v => [(a, v)]
  | (k, w) :: rest, a, v =>
    if a < k then (a, v) :: (k, w) :: rest
    else if a = k then (a, v) :: rest
    else (k, w) :: cellPut rest a v

/-- List no value for a key. -/
def cellDrop {α : Type} : List (Nat × α) → Nat → List (Nat × α)
  | [], _ => []
  | (k, w) :: rest, a => if a = k then cellDrop rest a else (k, w) :: cellDrop rest a

/-- The keys rise strictly. -/
def cellsRise {α : Type} : List (Nat × α) → Bool
  | [] => true
  | (k, _) :: rest => rest.all (fun c => decide (k < c.1)) && cellsRise rest

/-- The sample a word of the pool holds; a word not listed holds 0. -/
def poolRead (pool : List (Nat × Sample)) (word : Nat) : Sample := (cellGet pool word).getD 0

/-- Write one word of the pool; a 0 is not listed, so that equal pools are equal data. -/
def poolWrite (pool : List (Nat × Sample)) (word : Nat) (v : Sample) : List (Nat × Sample) :=
  if v = 0 then cellDrop pool word else cellPut pool word v

/-- The canonical form of the pool: word addresses rise strictly, and no listed word holds 0. -/
def poolWf (pool : List (Nat × Sample)) : Bool :=
  cellsRise pool && pool.all (fun c => decide (c.2 ≠ 0))

/-- Put a number into an ascending list, once. -/
def insertAsc : List Nat → Nat → List Nat
  | [], a => [a]
  | k :: rest, a => if a < k then a :: k :: rest else if a = k then k :: rest else k :: insertAsc rest a

/-- Record a number as in or out of an ascending list. -/
def memberSet (l : List Nat) (a : Nat) (on : Bool) : List Nat :=
  if on then insertAsc l a else l.filter (fun k => decide (k ≠ a))

/-- The numbers from `lo` to `lo + n - 1`. -/
def numbers (lo : Nat) : Nat → List Nat
  | 0 => []
  | n + 1 => lo :: numbers (lo + 1) n

/-- Do something for each number from `lo` to `lo + n - 1`, in ascending order. -/
def forEach {σ : Type} (n lo : Nat) (f : σ → Nat → σ) (s : σ) : σ :=
  match n with
  | 0 => s
  | k + 1 => forEach k (lo + 1) f (f s lo)

/-! ### The blocks' places -/

def Hub.withClock (h : Hub) (c : MediaClock) : Hub := { h with clock := c }
def Hub.withOutputs (h : Hub) (o : OutputUnit) : Hub := { h with outputs := o }
def Hub.withTallies (h : Hub) (t : List Tally) : Hub := { h with tallies := t }
def Hub.withEngine (h : Hub) (e : StreamEngine) : Hub := { h with engine := e }
def Hub.withCues (h : Hub) (c : List CueEntry) : Hub := { h with cues := c }
def Hub.withPorts (h : Hub) (p : List Port) : Hub := { h with ports := p }
def Hub.withBus (h : Hub) (b : ControlBus) : Hub := { h with bus := b }
def Hub.withSurface (h : Hub) (s : Surface) : Hub := { h with surface := s }
def Hub.withMeters (h : Hub) (m : List Meter) : Hub := { h with meters := m }
def Hub.withLink (h : Hub) (l : Link) : Hub := { h with link := l }

/-- One more free value has been drawn. -/
def Hub.drawn (h : Hub) : Hub := { h with draws := h.draws + 1 }

/-- The defined stream of a number (R32). -/
def Hub.stream (h : Hub) (i : Nat) : Option Stream := (h.engine.streams[i]?).join

/-- Replace a stream's record. -/
def Hub.putStream (h : Hub) (i : Nat) (st : Stream) : Hub :=
  h.withEngine { h.engine with streams := h.engine.streams.set i (some st) }

def Hub.port (h : Hub) (i : Nat) : Option Port := h.ports[i]?
def Hub.putPort (h : Hub) (i : Nat) (p : Port) : Hub := h.withPorts (h.ports.set i p)

/-- The record of a node address, 1 to 16 (R137). -/
def Hub.node (h : Hub) (a : Nat) : Option Node := if a = 0 then none else h.surface.nodes[a - 1]?

def Hub.putNode (h : Hub) (a : Nat) (n : Node) : Hub :=
  h.withSurface { h.surface with nodes := h.surface.nodes.set (a - 1) n }

def Hub.meter (h : Hub) (i : Nat) : Option Meter := h.meters[i]?
def Hub.putMeter (h : Hub) (i : Nat) (m : Meter) : Hub := h.withMeters (h.meters.set i m)
def Hub.tally (h : Hub) (i : Nat) : Option Tally := h.tallies[i]?
def Hub.putTally (h : Hub) (i : Nat) (t : Tally) : Hub := h.withTallies (h.tallies.set i t)
def Hub.out (h : Hub) (i : Nat) : Option ClockOut := h.outputs.outs[i]?
def Hub.putOut (h : Hub) (i : Nat) (o : ClockOut) : Hub :=
  h.withOutputs { h.outputs with outs := h.outputs.outs.set i o }

/-! ### Notices (R180) -/

/-- The most a four-byte total counts to (R58, R64). -/
def countLimit : Nat := 4294967295

/-- A number limited to −127 … 127 (R159). -/
def limit127 (v : Int) : Int := max (-127) (min 127 v)

/-- The coalescing key of a notice (R180's table). -/
def NoticeBody.key : NoticeBody → Option NoticeKey
  | .clockState .. => some .clockState
  | .streamState .. => none
  | .streamGap i _ _ => some (.streamGap i)
  | .blockRefused i r _ _ => some (.blockRefused i r)
  | .played i _ => some (.played i)
  | .cueFired .. => none
  | .cueFlushed .. => none
  | .portState .. => none
  | .nodeState .. => none
  | .surfaceEvent n c .fader _ _ _ => some (.surface n c .fader)
  | .surfaceEvent n c .encoder _ _ _ => some (.surface n c .encoder)
  | .surfaceEvent _ _ .touch _ _ _ => none
  | .surfaceEvent _ _ .button _ _ _ => none
  | .clip m _ => some (.clip m)
  | .linkError _ => some .linkError

/-- What a waiting notice becomes when one of the same key is posted (R180's table). -/
def NoticeBody.merge (waiting newer : NoticeBody) : NoticeBody :=
  match waiting, newer with
  | .streamGap i first total, .streamGap _ _ more => .streamGap i first (min (total + more) countLimit)
  | .blockRefused i r _ frames, .blockRefused _ _ start more => .blockRefused i r start (min (frames + more) countLimit)
  | .surfaceEvent n c .encoder v _ _, .surfaceEvent _ _ .encoder v' stamp bound =>
    .surfaceEvent n c .encoder (limit127 (v + v')) stamp bound
  | _, newer => newer

/-- A notice with this key waits. -/
def keyWaits (q : List Notice) (k : NoticeKey) : Bool := q.any (fun w => w.body.key == some k)

/-- Update in place the notice that waits under a key. -/
def updateWaiting (q : List Notice) (k : NoticeKey) (stamp : Nat) (body : NoticeBody) : List Notice :=
  q.map (fun w => if w.body.key = some k then ⟨stamp, w.body.merge body⟩ else w)

/-- A notice without a waiting key joins the queue, or is dropped and sets LOST (R180, R181). -/
def Link.join (l : Link) (stamp : Nat) (body : NoticeBody) : Link :=
  if l.notices.length < Config.noticeCapacity then { l with notices := l.notices ++ [⟨stamp, body⟩] }
  else { l with lost := true }

/-- Post a notice (R180): it coalesces with a waiting one of its key, joins the queue, or is dropped and sets LOST. -/
def Link.post (l : Link) (stamp : Nat) (body : NoticeBody) : Link :=
  match body.key with
  | none => l.join stamp body
  | some k =>
    if keyWaits l.notices k then { l with notices := updateWaiting l.notices k stamp body }
    else l.join stamp body

/-- Post a notice with a stamp of its own. -/
def Hub.postAt (h : Hub) (stamp : Nat) (body : NoticeBody) : Hub := h.withLink (h.link.post stamp body)

/-- Post a notice stamped with N (R180). -/
def Hub.post (h : Hub) (body : NoticeBody) : Hub := h.postAt h.clock.n body

/-! ### Reply entries (R176, R177) -/

/-- How many of the 16 reply entries are held: by commands in progress and by waiting replies. -/
def Link.entriesHeld (l : Link) : Nat := l.held.length + l.replies.length

/-- What a command's handler is told: the command's tag and its reply entry. -/
structure CommandCtx where
  tag : Tag
  entry : Nat
deriving DecidableEq, Repr, Inhabited

/-- What a handler answers: a reply that is ready, or a reply that comes later. -/
inductive Handled where
  | reply (status : Status) (fields : List Byte)
  | deferred
deriving DecidableEq, Repr, Inhabited

/-- Refuse a command: nothing changes (R176). -/
def Hub.refuse (h : Hub) (s : Status) : Hub × Handled := (h, .reply s [])

/-- Accept a command with its result fields. -/
def Hub.accept (h : Hub) (fields : List Byte) : Hub × Handled := (h, .reply .ok fields)

/-- A reply becomes ready: it joins the reply queue in the place of its command's entry. A reply whose entry has been
taken away, by a link reset or by RESET_PART, is discarded (R183, R184). -/
def Link.answer (l : Link) (entry : Nat) (r : Reply) : Link :=
  if l.held.contains entry then { l with held := l.held.erase entry, replies := l.replies ++ [r] } else l

def Hub.answer (h : Hub) (entry : Nat) (r : Reply) : Hub := h.withLink (h.link.answer entry r)

/-- A handler of one command: the hub with the command's entry held, the command's context and its body. -/
abbrev Handler := Hub → CommandCtx → List Byte → Hub × Handled

/-- Take a reply entry for a command (R177). -/
def Link.takeEntry (l : Link) : Link := { l with held := l.held ++ [l.serial], serial := l.serial + 1 }

/-- Dispatch a command to its handler: it takes an entry, is handled, and its reply, when ready, joins the queue (R176). -/
def Hub.runCommand (h : Hub) (code : Byte) (handler : Handler) (tag : Tag) (body : List Byte) : Hub :=
  match handler (h.withLink h.link.takeEntry) ⟨tag, h.link.serial⟩ body with
  | (h', .reply st fields) => h'.answer h.link.serial ⟨code, tag, st, fields⟩
  | (h', .deferred) => h'

/-- The link carries inbound messages now: the part is out of reset, the link is configured, no command is paused. -/
def Hub.takesMessages (h : Hub) : Bool := h.resetN && h.link.configured && h.link.paused.isNone

/-- A complete command reaches dispatch (R176, R177): it is dispatched when an entry is free; otherwise dispatch pauses at it.
While the link carries no message, or waits behind a paused command, it is not taken. -/
def Hub.command (h : Hub) (code : Byte) (handler : Handler) (tag : Tag) (body : List Byte) : Hub :=
  if h.takesMessages then
    if h.link.entriesHeld < Config.nEntries then h.runCommand code handler tag body
    else h.withLink { h.link with paused := some ⟨code, tag, body⟩ }
  else h

/-! ### Commands on the whole machine -/

/-- A command's effect on the hub; the waiting commands are not touched. -/
def State.onHub (s : State) (f : Hub → Hub) : Host.Outcome State Fault Refusal := .next { s with hub := f s.hub }

/-- The same, for an event of a part that is out of reset: while RESET_N is low nothing happens (R183). -/
def State.onLive (s : State) (f : Hub → Hub) : Host.Outcome State Fault Refusal :=
  s.onHub (fun h => if h.resetN then f h else h)

end Sys2Proof.Machine
end

