-- ==== Sys2Proof/Machine/Operands.lean ====
section
/-! DEFINITION. Reading and writing the fields of messages (R185, R186): little-endian numbers, flags, optional fields and
the codes of enumerated fields. -/

namespace Sys2Proof.Machine

/-- The byte at an offset of a body, 0 beyond its end. -/
def byteAt (body : List Byte) (off : Nat) : Nat := (body.getD off 0).toNat

/-- The little-endian number of `w` bytes at an offset (R185). -/
def fieldAt (body : List Byte) (off : Nat) : Nat → Nat
  | 0 => 0
  | w + 1 => byteAt body off + 256 * fieldAt body (off + 1) w

/-- A number as `w` little-endian bytes (R185). -/
def bytesOf : Nat → Nat → List Byte
  | 0, _ => []
  | w + 1, n => BitVec.ofNat 8 n :: bytesOf w (n / 256)

def oneByte (n : Nat) : Byte := BitVec.ofNat 8 n

/-- A flag field: 0 or 1; any other value is an undefined code (R185). -/
def flagOf : Nat → Option Bool
  | 0 => some false
  | 1 => some true
  | _ => none

def flagByte (b : Bool) : Byte := if b then 1 else 0

/-- An optional field: a presence byte, then the value bytes, zero when absent (R185). -/
def optBytes (w : Nat) : Option Nat → List Byte
  | none => 0 :: bytesOf w 0
  | some v => 1 :: bytesOf w v

/-- Zero bytes of an unused or absent field (R185). -/
def zeros (n : Nat) : List Byte := List.replicate n 0

/-- The body of a command with a count field has its fixed length and its entries (R186). -/
def countedShape (body : List Byte) (fixed countAt width : Nat) : Bool :=
  decide (fixed ≤ body.length) && decide (body.length = fixed + byteAt body countAt * width)

/-! ### Codes, numbered from 0 in the order chapter 13 lists them -/

def Source.code : Source → Nat
  | .internal => 0
  | .wordIn => 1
  | .linkFrame => 2

def Source.ofCode : Nat → Option Source
  | 0 => some .internal
  | 1 => some .wordIn
  | 2 => some .linkFrame
  | _ => none

def Rate.code : Rate → Nat
  | .r44 => 0
  | .r48 => 1
  | .r88 => 2
  | .r96 => 3
  | .r176 => 4
  | .r192 => 5

def Rate.ofCode : Nat → Option Rate
  | 0 => some .r44
  | 1 => some .r48
  | 2 => some .r88
  | 3 => some .r96
  | 4 => some .r176
  | 5 => some .r192
  | _ => none

/-- A detected rate's code; UNKNOWN is 255. -/
def detectedCode : Option Rate → Nat
  | none => 255
  | some r => r.code

def ClockState.code : ClockState → Nat
  | .internal => 0
  | .acquiring => 1
  | .locked => 2
  | .holdover => 3

def ClockReason.code : ClockReason → Nat
  | .locked => 0
  | .referenceLost => 1
  | .noReference => 2
  | .rateMismatch => 3
  | .acquireTimeout => 4
  | .sourceChanged => 5

def Choice.code : Choice → Nat
  | .off => 0
  | .m => 1
  | .m2 => 2
  | .m4 => 3
  | .m8 => 4
  | .m16 => 5
  | .word => 6

def Choice.ofCode : Nat → Option Choice
  | 0 => some .off
  | 1 => some .m
  | 2 => some .m2
  | 3 => some .m4
  | 4 => some .m8
  | 5 => some .m16
  | 6 => some .word
  | _ => none

def OutState.code : OutState → Nat
  | .quiet => 0
  | .starting => 1
  | .running => 2
  | .closing => 3
  | .paused => 4

def TallyMode.code : TallyMode → Nat
  | .oneshot => 0
  | .periodic => 1

def TallyMode.ofCode : Nat → Option TallyMode
  | 0 => some .oneshot
  | 1 => some .periodic
  | _ => none

def Polarity.code : Polarity → Nat
  | .activeHigh => 0
  | .activeLow => 1

def Polarity.ofCode : Nat → Option Polarity
  | 0 => some .activeHigh
  | 1 => some .activeLow
  | _ => none

def TallyState.code : TallyState → Nat
  | .stopped => 0
  | .waiting => 1
  | .active => 2
  | .resting => 3

def Direction.code : Direction → Nat
  | .play => 0
  | .capture => 1

def Direction.ofCode : Nat → Option Direction
  | 0 => some .play
  | 1 => some .capture
  | _ => none

def Format.code : Format → Nat
  | .s16 => 0
  | .s24 => 1
  | .s32 => 2

def Format.ofCode : Nat → Option Format
  | 0 => some .s16
  | 1 => some .s24
  | 2 => some .s32
  | _ => none

def StreamState.code : StreamState → Nat
  | .idle => 0
  | .armed => 1
  | .running => 2
  | .draining => 3
  | .halted => 4

def StreamReason.code : StreamReason → Nat
  | .arm => 0
  | .triggerCommand => 1
  | .triggerCue => 2
  | .triggerBinding => 3
  | .triggerLevel => 4
  | .stopped => 5
  | .countDone => 6
  | .abandoned => 7
  | .allowance => 8

def BlockReason.code : BlockReason → Nat
  | .noStream => 0
  | .notArmed => 1
  | .malformed => 2
  | .late => 3
  | .early => 4
  | .headTrimmed => 5
  | .tailTruncated => 6

def LatePolicy.code : LatePolicy → Nat
  | .fire => 0
  | .drop => 1

def LatePolicy.ofCode : Nat → Option LatePolicy
  | 0 => some .fire
  | 1 => some .drop
  | _ => none

def CueResult.code : CueResult → Nat
  | .ok => 0
  | .noSuch => 1
  | .notApplicable => 2
  | .queueFull => 3
  | .nodeNotOnline => 4
  | .noAckAddress => 5
  | .noAckData => 6
  | .busStuck => 7

def FlushCause.code : FlushCause → Nat
  | .rateChange => 0
  | .command => 1

def Role.code : Role → Nat
  | .unused => 0
  | .capture => 1
  | .playback => 2

def Role.ofCode : Nat → Option Role
  | 0 => some .unused
  | 1 => some .capture
  | 2 => some .playback
  | _ => none

def PortState.code : PortState → Nat
  | .off => 0
  | .init => 1
  | .settling => 2
  | .running => 3
  | .fault => 4

def PortReason.code : PortReason → Nat
  | .start => 0
  | .initDone => 1
  | .settled => 2
  | .stopped => 3
  | .noAckAddress => 4
  | .noAckData => 5
  | .busStuck => 6

def JobKind.code : JobKind → Nat
  | .xfer .. => 0
  | .cue .. => 1
  | .init .. => 2

def NodeState.code : NodeState → Nat
  | .disabled => 0
  | .online => 1
  | .offline => 2
  | .halted => 3

def NodeReason.code : NodeReason → Nat
  | .allowance => 0
  | .babble => 1
  | .halted => 2
  | .recovered => 3
  | .resetOk => 4

/-- Setting kinds keep their codes of the line (R135). -/
def SettingKind.code : SettingKind → Nat
  | .led => 16
  | .motor => 17
  | .meter => 18

def SettingKind.ofCode : Nat → Option SettingKind
  | 16 => some .led
  | 17 => some .motor
  | 18 => some .meter
  | _ => none

/-- The highest value of a setting kind (R135). -/
def SettingKind.limit : SettingKind → Nat
  | .led => 3
  | .motor => 1023
  | .meter => 32

/-- Event kinds keep their codes of the line (R135). -/
def EventKind.code : EventKind → Nat
  | .fader => 1
  | .touch => 2
  | .button => 3
  | .encoder => 4

def EventKind.ofCode : Nat → Option EventKind
  | 1 => some .fader
  | 2 => some .touch
  | 3 => some .button
  | 4 => some .encoder
  | _ => none

def Edge.code : Edge → Nat
  | .press => 0
  | .release => 1

def Edge.ofCode : Nat → Option Edge
  | 0 => some .press
  | 1 => some .release
  | _ => none

def LinkErrorKind.code : LinkErrorKind → Nat
  | .badCheck => 0
  | .badKind => 1
  | .tooLong => 2
  | .truncated => 3

/-- Status values (chapter 13; the value 6 is not sent). -/
def Status.code : Status → Nat
  | .ok => 0
  | .malformed => 1
  | .unknownCommand => 2
  | .badValue => 3
  | .noSuch => 4
  | .busy => 5
  | .full => 7
  | .conflict => 8
  | .late => 9
  | .aborted => 10
  | .noAckAddress => 11
  | .noAckData _ => 12
  | .busStuck => 13
  | .noResponse => 14

end Sys2Proof.Machine
end

