-- ==== Sys2Proof/Machine/Flags.lean ====
section
/-! DEFINITION. The flags bytes of chapter 13: bit 0 is the least significant bit. -/

namespace Sys2Proof.Machine

/-- A flags byte from its bits, bit 0 first. The bits that chapter 13 does not assign are sent as 0 (DESIGN CHOICE, log 56). -/
def flagsByte : List Bool → Nat
  | [] => 0
  | b :: rest => (if b then 1 else 0) + 2 * flagsByte rest

/-- Notice flags: bit 0 LOST (R181). -/
def noticeFlags (lost : Bool) : Byte := oneByte (flagsByte [lost])

/-- STREAM_STATE flags: bit 0 CLAMPED, bit 1 E raised to Dp. -/
def streamStateFlags (clamped raised : Bool) : Byte := oneByte (flagsByte [clamped, raised])

/-- CUE_FIRED flags: bit 0 LATE, bit 1 SKIPPED. -/
def cueFiredFlags (late skipped : Bool) : Byte := oneByte (flagsByte [late, skipped])

/-- SURFACE_EVENT flags: bit 0 BOUND. -/
def surfaceFlags (bound : Bool) : Byte := oneByte (flagsByte [bound])

/-- Capture block flags: bit 0 FINAL, bit 1 DISCONTINUITY, bit 2 NOT_RUNNING (R86). -/
def captureFlags (final disc notRunning : Bool) : Byte := oneByte (flagsByte [final, disc, notRunning])

/-- A setting's marks in GET_NODE: bit 0 held, bit 1 in flight, bit 2 replaced. -/
def settingMarks (held inFlight replaced : Bool) : Byte := oneByte (flagsByte [held, inFlight, replaced])

/-- Bit 0 of a play block's flags byte: REPORT_PLAYED (R52: the other bits are ignored). -/
def reportPlayed (flags : Nat) : Bool := flags % 2 == 1

end Sys2Proof.Machine
end

