-- ==== Sys2Proof/Machine/Timeline.lean ====
section
/-! DEFINITION. Chapter 1: rates and families, the frequency correction, reference events, rate measurement and the clock
states (R2 to R11), and the link-frame mark (R16). The commands SET_CLOCK and GET_CLOCK are in ClockCommands.lean. -/

namespace Sys2Proof.Machine

/-! ### Rates (R3) -/

def Rate.hz : Rate → Nat
  | .r44 => 44100
  | .r48 => 48000
  | .r88 => 88200
  | .r96 => 96000
  | .r176 => 176400
  | .r192 => 192000

def Rate.family : Rate → Family
  | .r44 => .xa
  | .r88 => .xa
  | .r176 => .xa
  | .r48 => .xb
  | .r96 => .xb
  | .r192 => .xb

/-- The rate multiple: the configured rate divided by its family base rate. -/
def Rate.multiple : Rate → Nat
  | .r44 => 1
  | .r48 => 1
  | .r88 => 2
  | .r96 => 2
  | .r176 => 4
  | .r192 => 4

/-- M of a family: 512 times its base rate. -/
def Family.masterHz : Family → Nat
  | .xa => 22579200
  | .xb => 24576000

/-- The frequency of XB, which rate measurement counts (R6). -/
def xbHz : Nat := 24576000

def Rate.all : List Rate := [.r44, .r48, .r88, .r96, .r176, .r192]

/-! ### The correction (R2) -/

/-- A correction kept in the pull range 1 − 1,000 ppm to 1 + 1,000 ppm (R2). -/
def clampPull (r : Ratio) : Ratio :=
  if r.den = 0 then nominal
  else if 1000 * r.num < 999 * (r.den : Int) then ⟨999, 1000⟩
  else if 1001 * (r.den : Int) < 1000 * r.num then ⟨1001, 1000⟩
  else r

/-- The correction in force in each clock state (R2's table). -/
def MediaClock.inForce (c : MediaClock) : Ratio :=
  match c.state with
  | .internal => nominal
  | .acquiring => c.steered
  | .locked => c.steered
  | .holdover => c.held

/-- The Media Clock adjusts the steered correction: a free value in the pull range. -/
def Hub.steer (h : Hub) : Hub :=
  (h.withClock { h.clock with steered := clampPull (Config.steeredCorrection h.draws) }).drawn

/-- Exact sum of two ratios. -/
def ratioPlus (a b : Ratio) : Ratio := ⟨a.num * b.den + b.num * a.den, a.den * b.den⟩

/-- A ratio taken `k` times. -/
def ratioTimes (a : Ratio) (k : Nat) : Ratio := ⟨a.num * k, a.den⟩

/-- A ratio divided by a whole number. -/
def ratioOver (a : Ratio) (k : Nat) : Ratio := ⟨a.num, a.den * k⟩

/-- The frame frequency of a window that ends `cycles` XB cycles after its last edge, as a ratio to nominal: the mean over the window's
`count` cycles of the correction that was in force (R9). -/
def MediaClock.windowMean (c : MediaClock) (cycles count : Nat) : Ratio :=
  ratioOver (ratioPlus c.window (ratioTimes c.inForce cycles)) count

/-- Record a correction as the held correction (R9). Every correction lies in the pull range (R2), where the clamp does nothing. -/
def Hub.recordHeld (h : Hub) (r : Ratio) : Hub := h.withClock { h.clock with held := clampPull r }

/-! ### Phase and measurement (R4, R6) -/

/-- A reference event is within bound when its phase error is at most 1/64 of a nominal frame period (R4). -/
def withinBound (phase : Ratio) : Bool := decide (0 < phase.den) && decide (64 * phase.num.natAbs ≤ phase.den)

/-- A count lies in the window of a rate: 256 × 24,576,000 / rate, plus or minus 0.5 % (R6), taken exactly. R6's table, rounded to a tenth, has the 88.2 kHz
window begin at 70,975.0, the formula at 70,975.04…: the count 70,975 lies in no window here (DESIGN CHOICE, log 67). -/
def inWindow (count : Nat) (r : Rate) : Bool :=
  decide (995 * (256 * xbHz) ≤ 1000 * (count * r.hz)) && decide (1000 * (count * r.hz) ≤ 1005 * (256 * xbHz))

/-- The rate whose window contains the count; `none` is UNKNOWN (R6). -/
def detectRate (count : Nat) : Option Rate := Rate.all.find? (inWindow count)

/-- LINK_FRAME: the point at which the next reference event was expected, in thousandths of a frame: the anchor, plus the
configured rate divided by 1,000 for each link frame since the anchor's event (R4). -/
def MediaClock.expectedMilliframes (c : MediaClock) : Option Nat :=
  c.anchor.map (fun a => a * 1000 + c.rate.hz * c.sinceAnchor)

/-! ### Clock states (R7 to R11) -/

/-- Post CLOCK_STATE with a reason (R11). -/
def Hub.postClock (h : Hub) (reason : ClockReason) : Hub :=
  h.post (.clockState h.clock.state h.clock.source h.clock.rate h.clock.detected reason)

/-- Enter ACQUIRING afresh (R7): lock run 0, acquisition timer from 0, the matching-measurement record as given, and the
anchor to be taken afresh (R4). -/
def Hub.enterAcquiring (h : Hub) (matched : Bool) : Hub :=
  (h.withClock { h.clock with
    state := .acquiring, lockRun := 0, timer := some 0, matched := matched, refRun := 0, anchor := none,
    sinceAnchor := 0 }).steer

/-- Leave for HOLDOVER: the steered correction is discarded and the held correction comes into force (R7, R9). The count of R10's 256
consecutive reference events starts at this entry (DESIGN CHOICE, log 47): R10 does not say from where the run is counted. -/
def Hub.enterHoldover (h : Hub) : Hub :=
  h.withClock { h.clock with state := .holdover, timer := none, refRun := 0, steered := h.clock.held }

/-- Lock when both halves of the lock condition stand (R7): ACQUIRING becomes LOCKED. With LINK_FRAME, R9's "every 256th reference event"
is counted from here, the event that locks not counted (DESIGN CHOICE, log 46). -/
def Hub.tryLock (h : Hub) : Hub :=
  if h.clock.state = .acquiring ∧ h.clock.lockRun = 64 ∧ (h.clock.source = .linkFrame ∨ h.clock.matched = true) then
    (h.withClock { h.clock with state := .locked, timer := none, refRun := 0 }).postClock .locked
  else h

/-- A reference event moves the lock run in ACQUIRING (R7). -/
def Hub.moveLockRun (h : Hub) (phase : Ratio) : Hub :=
  if h.clock.state = .acquiring then
    h.withClock { h.clock with lockRun := if withinBound phase then min 64 (h.clock.lockRun + 1) else 0 }
  else h

/-- The Media Clock steers in ACQUIRING and LOCKED (R2). -/
def Hub.steerAtEvent (h : Hub) : Hub :=
  match h.clock.state with
  | .acquiring => h.steer
  | .locked => h.steer
  | .internal => h
  | .holdover => h

/-- A measurement completes with a count (R6), and acts on the state as R7, R9 and R10 say. `mean` is the frame frequency of its window.
R9 speaks of windows completed while LOCKED: the window whose own completion locks records no held correction (DESIGN CHOICE, log 54). -/
def Hub.measurementEnd (h : Hub) (count : Nat) (mean : Ratio) : Hub :=
  let d := detectRate count
  let h1 := h.withClock { h.clock with detected := d }
  match h.clock.state with
  | .internal => h1
  | .acquiring =>
    if d = some h.clock.rate then (h1.withClock { h1.clock with matched := true }).tryLock
    else h1.enterHoldover.postClock .rateMismatch
  | .locked =>
    if d = some h.clock.rate then h1.recordHeld mean
    else h1.enterHoldover.postClock .referenceLost
  | .holdover =>
    if d = some h.clock.rate then (h1.enterAcquiring true).postClock .sourceChanged
    else h1

/-- Count an edge toward the rate measurement (R6): the first edge starts one, the 256th after it ends it and starts the next. `before`
is the Media Clock as the edge found it, with the correction in force since the edge before (R9). -/
def Hub.measureEdge (h : Hub) (before : MediaClock) (cycles : Nat) : Hub :=
  match h.clock.measurement with
  | none => h.withClock { h.clock with measurement := some ⟨0, 0⟩, window := ⟨0, 1⟩ }
  | some m =>
    if 255 ≤ m.edges then
      (h.withClock { h.clock with measurement := some ⟨0, 0⟩, window := ⟨0, 1⟩ }).measurementEnd (m.count + cycles)
        (before.windowMean cycles (m.count + cycles))
    else h.withClock { h.clock with
      measurement := some ⟨m.edges + 1, m.count + cycles⟩, window := ratioPlus before.window (ratioTimes before.inForce cycles) }

/-- A rising edge on WCKI (R4, R6, R7, R9, R10); edges are ignored while the source is not WORD_IN. -/
def Hub.wckiEdge (h : Hub) (phase : Ratio) (cycles : Nat) : Hub :=
  if h.clock.source = .wordIn then
    (((h.steerAtEvent).moveLockRun phase).tryLock).measureEdge h.clock cycles
  else h

/-- Pair a LINK_FRAME event (R4): the first after an entry into ACQUIRING takes the nearest boundary as its anchor; each
later one counts the link frames since. `step` is how far the frame number moved. At N = 0 no boundary of this timeline precedes the
event, and an event after its nearest boundary takes the anchor 0 (DESIGN CHOICE, log 11). -/
def MediaClock.pairLink (c : MediaClock) (phase : Ratio) (step : Nat) : MediaClock :=
  match c.anchor with
  | none => { c with anchor := some (if 0 ≤ phase.num then c.n - 1 else c.n), sinceAnchor := 0 }
  | some _ => { c with sinceAnchor := c.sinceAnchor + step }

/-- A start-of-frame as reference event of the source LINK_FRAME (R4, R7, R9, R10). The correction that R9 records is the one in force
as the event is taken, before the adjustment the event itself brings (DESIGN CHOICE, log 10). -/
def Hub.linkEvent (h : Hub) (phase : Ratio) (step : Nat) : Hub :=
  let h1 := (h.withClock (h.clock.pairLink phase step)).steerAtEvent
  match h.clock.state with
  | .internal => h1
  | .acquiring => (h1.moveLockRun phase).tryLock
  | .locked =>
    if 255 ≤ h1.clock.refRun then (h1.withClock { h1.clock with refRun := 0 }).recordHeld h.clock.steered
    else h1.withClock { h1.clock with refRun := h1.clock.refRun + 1 }
  | .holdover =>
    if 255 ≤ h1.clock.refRun then (h1.enterAcquiring true).postClock .sourceChanged
    else h1.withClock { h1.clock with refRun := h1.clock.refRun + 1 }

/-- How far the 11-bit frame number moved since the last start-of-frame taken. -/
def frameStep (last : Option (BitVec 11)) (frame : BitVec 11) : Nat :=
  match last with
  | none => 1
  | some f => (frame - f).toNat

/-- The link takes a start-of-frame that carries a new frame number (R16, R184). -/
def Hub.newFrame (h : Hub) (frame : BitVec 11) : Bool :=
  h.link.configured && decide (h.link.lastFrame ≠ some frame)

/-- A USB start-of-frame (R16): with a new frame number it replaces the mark and, with LINK_FRAME, is a reference event. -/
def Hub.startOfFrame (h : Hub) (frame : BitVec 11) (phase : Ratio) : Hub :=
  if h.newFrame frame then
    let step := frameStep h.link.lastFrame frame
    let h1 := h.withLink { h.link with mark := ⟨frame, h.clock.n⟩, lastFrame := some frame }
    if h1.clock.source = .linkFrame then h1.linkEvent phase step else h1
  else h

/-- A measurement in progress is abandoned, and the detected rate becomes UNKNOWN (R6). -/
def MediaClock.abandonMeasurement (c : MediaClock) : MediaClock :=
  if c.source = .wordIn then { c with measurement := none, detected := none } else c

/-- No reference event for 8 (ACQUIRING, HOLDOVER) or 4 (LOCKED) expected periods (R7, R9, R10). -/
def Hub.referenceTimeout (h : Hub) : Hub :=
  if h.clock.source = .internal then h
  else
    let h1 := h.withClock h.clock.abandonMeasurement
    match h.clock.state with
    | .internal => h
    | .acquiring => h1.enterHoldover.postClock .noReference
    | .locked => h1.enterHoldover.postClock .referenceLost
    | .holdover => h1.withClock { h1.clock with refRun := 0 }

/-- The acquisition timer reaches 2,000 ms in ACQUIRING, once per entry (R8). -/
def Hub.acquireTimeout (h : Hub) : Hub :=
  match h.clock.timer with
  | none => h
  | some t =>
    if h.clock.state = .acquiring ∧ t < 2000 then
      (h.withClock { h.clock with timer := some 2000 }).postClock .acquireTimeout
    else h

/-! ### The particular reference events that rows of their own name -/

/-- The event reaches the part as a reference event: a WCKI edge with WORD_IN, a new start-of-frame with LINK_FRAME (R4). -/
def Hub.isReference (h : Hub) (ev : RefEvent) : Bool :=
  match ev with
  | .wcki _ _ => decide (h.clock.source = .wordIn)
  | .sof frame _ => h.newFrame frame && decide (h.clock.source = .linkFrame)

def referencePhase : RefEvent → Ratio
  | .wcki p _ => p
  | .sof _ p => p

/-- Take a reference event. -/
def Hub.referenceEvent (h : Hub) (ev : RefEvent) : Hub :=
  match ev with
  | .wcki phase cycles => h.wckiEdge phase cycles
  | .sof frame phase => h.startOfFrame frame phase

/-- This reference event is the one that completes the lock run with the other half of the lock condition met (R7). -/
def Hub.lockDue (h : Hub) (ev : RefEvent) : Bool :=
  h.isReference ev && withinBound (referencePhase ev) && decide (h.clock.state = .acquiring) && decide (63 ≤ h.clock.lockRun) &&
    (decide (h.clock.source = .linkFrame) || h.clock.matched)

/-- The next WCKI edge is the 256th of the measurement in progress (R6). -/
def Hub.measurementDue (h : Hub) : Bool :=
  decide (h.clock.source = .wordIn) &&
    (match h.clock.measurement with
     | none => false
     | some m => decide (255 ≤ m.edges))

/-- The next start-of-frame is the 256th counted in this clock state, with LINK_FRAME (R9, R10). -/
def Hub.linkCountDue (h : Hub) (st : ClockState) (frame : BitVec 11) : Bool :=
  decide (h.clock.source = .linkFrame) && decide (h.clock.state = st) && decide (255 ≤ h.clock.refRun) && h.newFrame frame

/-! ### Meanings -/

/-- WCKI_EDGE (R4). -/
def execWckiEdge (phase : Ratio) (cycles : Nat) (s : State) : Host.Outcome State Fault Refusal :=
  s.onLive (fun h => h.wckiEdge phase cycles)

/-- RATE_MEASUREMENT_COMPLETE (R6): the edge that is the 256th of the measurement in progress. -/
def execRateMeasurementComplete (phase : Ratio) (cycles : Nat) (s : State) : Host.Outcome State Fault Refusal :=
  s.onLive (fun h => if h.measurementDue then h.wckiEdge phase cycles else h)

/-- ACQUIRE_LOCK (R7): the reference event at which the lock run reaches 64 and ACQUIRING becomes LOCKED. -/
def execAcquireLock (ev : RefEvent) (s : State) : Host.Outcome State Fault Refusal :=
  s.onLive (fun h => if h.lockDue ev then h.referenceEvent ev else h)

/-- REFERENCE_TIMEOUT (R7, R9, R10). -/
def execReferenceTimeout (s : State) : Host.Outcome State Fault Refusal := s.onLive Hub.referenceTimeout

/-- ACQUIRE_TIMEOUT (R8). -/
def execAcquireTimeout (s : State) : Host.Outcome State Fault Refusal := s.onLive Hub.acquireTimeout

/-- LINK_CORRECTION_RECORD (R9): in LOCKED with LINK_FRAME, the start-of-frame that is every 256th reference event. -/
def execLinkCorrectionRecord (frame : BitVec 11) (phase : Ratio) (s : State) : Host.Outcome State Fault Refusal :=
  s.onLive (fun h => if h.linkCountDue .locked frame then h.startOfFrame frame phase else h)

/-- LINK_REFERENCE_RETURN (R10): in HOLDOVER with LINK_FRAME, the 256th consecutive reference event. -/
def execLinkReferenceReturn (frame : BitVec 11) (phase : Ratio) (s : State) : Host.Outcome State Fault Refusal :=
  s.onLive (fun h => if h.linkCountDue .holdover frame then h.startOfFrame frame phase else h)

/-- START_OF_FRAME (R16). -/
def execStartOfFrame (frame : BitVec 11) (phase : Ratio) (s : State) : Host.Outcome State Fault Refusal :=
  s.onLive (fun h => h.startOfFrame frame phase)

/-- CRYSTAL_SWITCH_DONE (R3): the switch is over, and the first boundary at the new rate may follow. -/
def execCrystalSwitchDone (s : State) : Host.Outcome State Fault Refusal :=
  s.onLive (fun h => h.withClock { h.clock with switching := false })

end Sys2Proof.Machine
end

