-- ==== Sys2Proof/Machine/Outputs.lean ====
section
/-! DEFINITION. Chapter 2: clock outputs (R19 to R25), tally units (R26 to R30) and GET_OUTPUTS (R31). -/

namespace Sys2Proof.Machine

/-! ### Clock outputs -/

/-- The divisor k of a choice M/k; 0 for WORD and OFF (R19). -/
def Choice.divisor : Choice → Nat
  | .off => 0
  | .m => 1
  | .m2 => 2
  | .m4 => 4
  | .m8 => 8
  | .m16 => 16
  | .word => 0

/-- One period of a choice in cycles of M: k for M/k, one nominal frame period (512, 256 or 128 cycles) for WORD (R19). -/
def Choice.cycles (c : Choice) (rate : Rate) : Nat :=
  match c with
  | .off => 0
  | .word => 512 / rate.multiple
  | c => c.divisor

/-- The nominal frequency of a choice in Hz, times 16 so that every division is whole (R19's table). -/
def Choice.hz16 (c : Choice) (rate : Rate) : Nat :=
  match c with
  | .off => 0
  | .word => 16 * rate.hz
  | c => 16 * rate.family.masterHz / c.divisor

/-- A period boundary of a choice: for M/k a cycle at which the divider counter is a multiple of k, for WORD a frame boundary (R19). -/
def Choice.atBoundary (c : Choice) (divider : Nat) (atFrame : Bool) : Bool :=
  match c with
  | .off => false
  | .word => atFrame
  | c => decide (divider % c.divisor = 0)

/-- The level of a setting `halves` half-cycles of M after the start of a period that is `length` cycles of M long (R19): the active
level for the first half of the period, the inactive level for the rest. -/
def OutSetting.level (c : OutSetting) (length halves : Nat) : Bool := if halves < length then !c.inv else c.inv

/-- The level of an output's pin `halves` half-cycles of M after the last event taken (R19): in a period, the waveform of its setting;
outside one, the inactive level. Periods of M/k follow one another; a WORD period is `frame` cycles of M long, the length R2 fixed for the
frame in progress. -/
def ClockOut.pin (o : ClockOut) (frame halves : Nat) : Bool :=
  match o.period with
  | none => o.inv
  | some c =>
    match c.choice with
    | .word => c.level frame (2 * o.elapsed + halves)
    | k => c.level k.divisor ((2 * o.elapsed + halves) % (2 * k.divisor))

/-- CKO0 to CKO3 (R19, R25): the outputs' levels, and low while RESET_N is low. -/
def Hub.cko (h : Hub) (i frame halves : Nat) : Bool :=
  h.resetN && ((h.out i).map (fun o => o.pin frame halves)).getD false

/-- `mCycles` cycles of M pass for one output. -/
def ClockOut.pass (o : ClockOut) (mCycles : Nat) : ClockOut :=
  { o with heldCycles := o.heldCycles + mCycles, elapsed := o.elapsed + mCycles }

/-- `mCycles` cycles of M pass for the divider counter, for every output, and since the last frame boundary. -/
def OutputUnit.advance (u : OutputUnit) (mCycles : Nat) : OutputUnit :=
  { u with
    divider := (u.divider + mCycles) % 16
    sinceFrame := u.sinceFrame.map (fun f => f + mCycles)
    outs := u.outs.map (fun o => o.pass mCycles) }

/-- Move to the inactive level of an inversion: a change starts the wait of R20 afresh. -/
def ClockOut.moveLevel (o : ClockOut) (inv : Bool) : ClockOut :=
  if inv = o.inv then o else { o with inv := inv, heldCycles := 0, noWait := false }

/-- Choice and inversion applied at once, in QUIET, STARTING and PAUSED (R20, R24). -/
def ClockOut.applyNow (o : ClockOut) (c : Choice) (inv : Bool) : ClockOut :=
  let o1 := o.moveLevel inv
  { o1 with choice := c, noWait := o1.noWait && (decide (c = o.choice) || decide (o.state = .paused)) }

/-- The Enable flag column of R23, also the effect of the cue action CLOCK_OUTPUT. -/
def ClockOut.setEnable (o : ClockOut) (e : Bool) : ClockOut :=
  let o1 := { o with enable := e }
  match o.state with
  | .quiet => if e && decide (o.choice ≠ .off) then { o1 with state := .starting, noWait := false } else o1
  | .starting => if e && decide (o.choice ≠ .off) then o1 else { o1 with state := .quiet }
  | .running => if e then o1 else { o1 with state := .closing }
  | .closing => if e then { o1 with state := .running } else o1
  | .paused => if e then o1 else { o1 with state := .quiet }

/-- Choice and inversion staged, in RUNNING and CLOSING; a command that repeats choice, inversion and enable clears the
staged setting (R21, R22, R23). -/
def ClockOut.stage (o : ClockOut) (c : Choice) (inv e : Bool) : ClockOut :=
  { o with staged := if c = o.choice ∧ inv = o.inv ∧ e = o.enable then none else some ⟨c, inv⟩ }

/-- SET_CLOCK_OUTPUT on one output (R23's table). -/
def ClockOut.set (o : ClockOut) (c : Choice) (inv e : Bool) : ClockOut :=
  match o.state with
  | .quiet => (o.applyNow c inv).setEnable e
  | .starting => (o.applyNow c inv).setEnable e
  | .paused => (o.applyNow c inv).setEnable e
  | .running => (o.stage c inv e).setEnable e
  | .closing => (o.stage c inv e).setEnable e

/-- The cycles of M for which a period that ends has held its inactive level: half of it (R19, R22). -/
def ClockOut.inactiveHalf (o : ClockOut) (cur : OutSetting) : Nat :=
  match cur.choice with
  | .word => o.elapsed / 2
  | k => k.divisor / 2

/-- The period in progress ends (R21, R22, R24): a staged setting replaces choice and inversion, and the output goes on. A WORD output
at a rate change within a family begins at the next frame boundary when its inversion is kept (R24); a changed inversion moves the pin
there, and then the wait of R20 applies (DESIGN CHOICE, log 49). An output that becomes PAUSED with its inversion kept begins at the boundary that
begins frame 0, where that is one of its choice, also when its pin has not held its level for a whole period (DESIGN CHOICE, log 57). At a
rate change across families a period that ends only after the first frame boundary at the new rate leaves the output PAUSED until the
frame boundary that comes next (DESIGN CHOICE, log 64). -/
def ClockOut.periodEnd (o : ClockOut) (divider : Nat) (atFrame : Bool) : ClockOut :=
  match o.period with
  | none => o
  | some cur =>
    let new : OutSetting := o.staged.getD ⟨o.choice, o.inv⟩
    let moved := decide (new.inv ≠ cur.inv)
    let o1 : ClockOut := { o with
      choice := new.choice, inv := new.inv, staged := none, period := none, change := .none,
      heldCycles := if moved then 0 else o.inactiveHalf cur, elapsed := 0, noWait := false }
    if o.state = .closing ∨ new.choice = .off then { o1 with state := .quiet }
    else if o.change = .across then { o1 with state := .paused, noWait := !moved }
    else if o.change = .within ∧ new.choice = .word then { o1 with state := .starting, noWait := !moved }
    else if moved then { o1 with state := .starting }
    else if new.choice = cur.choice ∨ new.choice.atBoundary divider atFrame = true then
      { o1 with state := .running, period := some new }
    else { o1 with state := .starting, noWait := true }

/-- The wait of R20 is over: a whole period of the choice has passed since the pin's level last changed, or the wait does not apply. At a
frame boundary a whole period of WORD is the frame period that ends there, `sinceFrame` cycles of M; where no frame boundary of this
timebase came before, it is the nominal one (DESIGN CHOICE, log 17). -/
def ClockOut.waited (o : ClockOut) (rate : Rate) (sinceFrame : Option Nat) : Bool :=
  o.noWait ||
    (match o.choice, sinceFrame with
     | .word, some f => decide (f ≤ o.heldCycles)
     | c, _ => decide (c.cycles rate ≤ o.heldCycles))

/-- In STARTING, at a qualifying period boundary, the output begins a whole period in RUNNING (R20). -/
def ClockOut.tryStart (o : ClockOut) (divider : Nat) (atFrame : Bool) (rate : Rate) (sinceFrame : Option Nat) : ClockOut :=
  if o.state = .starting ∧ o.choice.atBoundary divider atFrame = true ∧ o.waited rate sinceFrame = true then
    { o with state := .running, period := some ⟨o.choice, o.inv⟩, change := .none, elapsed := 0, noWait := false }
  else o

/-- A PAUSED output leaves PAUSED at a frame boundary at the new rate (R24). -/
def ClockOut.restart (o : ClockOut) : ClockOut :=
  if o.state = .paused then
    (if o.choice = .off then { o with state := .quiet } else { o with state := .starting })
  else o

/-- One output's work at a frame boundary: the boundary ends a WORD period, restarts a PAUSED output, and may be the
boundary a STARTING output waits for (R19, R20, R22, R24). The period of a WORD output that a rate change or a RESET_PART has
abandoned ends by itself (CLOCK_OUTPUT_PERIOD_END). -/
def ClockOut.atFrameBoundary (o : ClockOut) (divider : Nat) (rate : Rate) (sinceFrame : Option Nat) : ClockOut :=
  let o1 := if o.change = .none ∧ (o.period.map OutSetting.choice) = some .word then o.periodEnd divider true else o
  (o1.restart).tryStart divider true rate sinceFrame

/-- The Clock Output Unit's work at a frame boundary. The divider counter is set to 0 at the first boundary after power-on,
RESET_PART and a crystal switch, and stands at 0 at every boundary while the clock state is INTERNAL (R19). After a return from steering
to INTERNAL, where a counter that ran on would not be at 0, the model sets it there; a period of M/k in progress keeps its own phase when the
counter is set (DESIGN CHOICE, log 48). -/
def Hub.outputsAtBoundary (h : Hub) (mCycles : Nat) : Hub :=
  let u := h.outputs.advance mCycles
  let divider := if u.zeroNext = true ∨ h.clock.state = .internal then 0 else u.divider
  h.withOutputs { u with
    divider := divider, zeroNext := false, switchPending := false, sinceFrame := some 0,
    outs := u.outs.map (fun o => o.atFrameBoundary divider h.clock.rate u.sinceFrame) }

/-- A STARTING output reaches a period boundary of its M division (R20). An output that waits through a crystal switch waits
at least until the first frame boundary at the new rate (R24); so does one that enters STARTING after the change was accepted (DESIGN CHOICE,
log 58). -/
def Hub.outputStart (h : Hub) (i mCycles : Nat) : Hub :=
  let u := h.outputs.advance mCycles
  if h.clock.switching = true ∨ u.switchPending = true then h.withOutputs u
  else h.withOutputs { u with outs := u.outs.modify i (fun o => o.tryStart u.divider false h.clock.rate none) }

/-- An output ends a period (R21, R22, R24). `atFrame` tells whether a frame boundary falls there. The event is taken at its word: the period in
progress ends there, also when the cycles counted in it do not make it whole (DESIGN CHOICE, log 65). -/
def Hub.outputPeriodEnd (h : Hub) (i mCycles : Nat) (atFrame : Bool) : Hub :=
  let u := h.outputs.advance mCycles
  h.withOutputs { u with outs := u.outs.modify i (fun o => o.periodEnd u.divider atFrame) }

/-- An accepted rate change reaches an output whose period is in progress (R24). -/
def ClockOut.rateChange (o : ClockOut) (across : Bool) : ClockOut :=
  if o.period.isSome then
    { o with change := if across || decide (o.change = .across) then .across else .within }
  else o

/-- An accepted rate change reaches the Clock Output Unit (R15, R24): the frame in progress is abandoned. -/
def Hub.outputsRateChange (h : Hub) (across : Bool) : Hub :=
  h.withOutputs { h.outputs with
    zeroNext := h.outputs.zeroNext || across
    switchPending := h.outputs.switchPending || across
    sinceFrame := none
    outs := h.outputs.outs.map (fun o => o.rateChange across) }

/-- RESET_PART on one output (R25): a period in progress is completed in CLOSING, with the reset values as its setting. Like a rate
change it abandons the frame in progress, and a WORD period with it; `fromXa` tells that the crystal changes too, from XA to XB. An output
enabled again before that period ends goes on from it as after a rate change (DESIGN CHOICE, log 62). -/
def ClockOut.resetPart (o : ClockOut) (fromXa : Bool) : ClockOut :=
  if o.period.isSome then
    { ClockOut.reset with
      state := .closing, period := o.period, elapsed := o.elapsed
      change := if fromXa || decide (o.change = .across) then .across else .within }
  else if o.inv then ClockOut.reset
  else { ClockOut.reset with heldCycles := o.heldCycles }

/-- SET_CLOCK_OUTPUT's handler (R23). -/
def setClockOutput : Handler := fun h _ body =>
  if body.length ≠ 4 then h.refuse .malformed
  else
    match h.out (byteAt body 0), Choice.ofCode (byteAt body 1), flagOf (byteAt body 2), flagOf (byteAt body 3) with
    | some o, some c, some inv, some e => (h.putOut (byteAt body 0) (o.set c inv e)).accept []
    | _, _, _, _ => h.refuse .badValue

/-! ### Tally units -/

/-- The active or inactive level of a polarity (R26). -/
def Polarity.level (p : Polarity) (active : Bool) : Bool :=
  match p with
  | .activeHigh => active
  | .activeLow => !active

/-- The level the pin shows: the active level while ACTIVE, the inactive level otherwise, low without settings (R27). -/
def Tally.level (t : Tally) : Bool :=
  match t.settings with
  | none => false
  | some c => c.polarity.level (decide (t.state = .active))

/-- A run evaluated against now (R28's table): the new state and the position of the next change. -/
def TallySettings.evaluate (c : TallySettings) (now : Nat) : TallyState × Option Nat :=
  if now < c.start then (.waiting, some c.start)
  else
    match c.mode with
    | .oneshot =>
      if now < c.start + c.width then (.active, some (c.start + c.width)) else (.stopped, none)
    | .periodic =>
      let k := (now - c.start) / c.period
      let r := (now - c.start) - k * c.period
      if r < c.width then (.active, some (c.start + k * c.period + c.width))
      else (.resting, some (c.start + (k + 1) * c.period))

/-- A unit takes the state its settings call for at `now`. -/
def Tally.evaluated (t : Tally) (c : TallySettings) (now : Nat) : Tally :=
  let (st, edge) := c.evaluate now
  { t with settings := some c, state := st, edge := edge }

/-- A run request (R28). `none`: the unit holds no settings, or is not STOPPED. The pin follows at the boundary that begins
frame now (R27). -/
def Tally.run (t : Tally) (now : Nat) : Option Tally :=
  match t.settings with
  | none => none
  | some c => if t.state = .stopped then some (t.evaluated c now) else none

/-- A stop (R30): the pin goes inactive at once, staged settings replace the settings; in STOPPED nothing changes. -/
def Tally.halt (t : Tally) : Tally :=
  if t.state = .stopped then t
  else
    let t1 : Tally := { t with state := .stopped, edge := none, settings := t.staged.or t.settings, staged := none }
    { t1 with pin := t1.level }

/-- Staged settings applied at the end of a period (R29), or the next state of the train. -/
def Tally.move (t : Tally) (p : Nat) : Tally :=
  match t.settings with
  | none => t
  | some c =>
    match t.state, c.mode with
    | .stopped, _ => t
    | .waiting, _ => { t with state := .active, edge := some (p + c.width) }
    | .active, .oneshot =>
      { t with state := .stopped, edge := none, settings := t.staged.or t.settings, staged := none }
    | .active, .periodic => { t with state := .resting, edge := some (p + (c.period - c.width)) }
    | .resting, _ =>
      match t.staged with
      | some new => { t.evaluated new p with staged := none }
      | none => { t with state := .active, edge := some (p + c.width) }

/-- A unit's work at the boundary that begins frame p (R29); the pin shows the state's level from this boundary (R27). -/
def Tally.atBoundary (t : Tally) (p : Nat) : Tally :=
  let t1 := if t.edge = some p then t.move p else t
  { t1 with pin := t1.level }

def Hub.talliesAtBoundary (h : Hub) (p : Nat) : Hub := h.withTallies (h.tallies.map (fun t => t.atBoundary p))

/-- The checks of SET_TALLY on a settings record (R26): `none` is BAD_VALUE. -/
def tallySettingsOf (body : List Byte) (off : Nat) : Option TallySettings :=
  match TallyMode.ofCode (byteAt body off), Polarity.ofCode (byteAt body (off + 15)) with
  | some mode, some pol =>
    let a := fieldAt body (off + 1) 6
    let w := fieldAt body (off + 7) 4
    let t := fieldAt body (off + 11) 4
    if w = 0 ∨ Config.positions ≤ a + w then none
    else
      match mode with
      | .oneshot => some ⟨mode, a, w, 0, pol⟩
      | .periodic => if t ≤ w then none else some ⟨mode, a, w, t, pol⟩
  | _, _ => none

/-- SET_TALLY on a unit (R26): at once in STOPPED, staged otherwise. -/
def Tally.set (t : Tally) (c : TallySettings) : Tally :=
  if t.state = .stopped then { t with settings := some c, pin := c.polarity.level false }
  else { t with staged := some c }

/-- SET_TALLY's handler. -/
def setTally : Handler := fun h _ body =>
  if body.length ≠ 17 then h.refuse .malformed
  else
    match h.tally (byteAt body 0), tallySettingsOf body 1 with
    | some t, some c => (h.putTally (byteAt body 0) (t.set c)).accept []
    | _, _ => h.refuse .badValue

/-- RUN_TALLY's handler (R28). -/
def runTally : Handler := fun h _ body =>
  if body.length ≠ 1 then h.refuse .malformed
  else
    match h.tally (byteAt body 0) with
    | none => h.refuse .badValue
    | some t =>
      if t.settings.isNone then h.refuse .noSuch
      else
        match t.run h.clock.n with
        | none => h.refuse .busy
        | some t' => (h.putTally (byteAt body 0) t').accept []

/-- STOP_TALLY's handler (R30). -/
def stopTally : Handler := fun h _ body =>
  if body.length ≠ 1 then h.refuse .malformed
  else
    match h.tally (byteAt body 0) with
    | none => h.refuse .badValue
    | some t => (h.putTally (byteAt body 0) t.halt).accept []

/-- An accepted rate change stops every unit (R15, R30). -/
def Hub.stopTallies (h : Hub) : Hub := h.withTallies (h.tallies.map Tally.halt)

/-! ### GET_OUTPUTS (R31) -/

def TallySettings.bytes (c : TallySettings) : List Byte :=
  [oneByte c.mode.code] ++ bytesOf 6 c.start ++ bytesOf 4 c.width ++ bytesOf 4 c.period ++ [oneByte c.polarity.code]

def optSettingsBytes : Option TallySettings → List Byte
  | none => 0 :: zeros 16
  | some c => 1 :: c.bytes

def ClockOut.record (o : ClockOut) : List Byte :=
  [oneByte o.choice.code, flagByte o.inv, flagByte o.enable, oneByte o.state.code] ++
    (match o.staged with
     | none => zeros 3
     | some c => [1, oneByte c.choice.code, flagByte c.inv])

def Tally.record (t : Tally) : List Byte :=
  [oneByte t.state.code] ++ optSettingsBytes t.settings ++ optSettingsBytes t.staged ++ optBytes 6 t.edge

/-- GET_OUTPUTS' handler. -/
def getOutputs : Handler := fun h _ body =>
  if body.length ≠ 0 then h.refuse .malformed
  else h.accept (h.outputs.outs.flatMap ClockOut.record ++ h.tallies.flatMap Tally.record)

/-! ### Meanings -/

/-- SET_CLOCK_OUTPUT (R23). -/
def execSetClockOutput (tag : Tag) (body : List Byte) (s : State) : Host.Outcome State Fault Refusal :=
  s.onHub (fun h => h.command 0x10 setClockOutput tag body)

/-- CLOCK_OUTPUT_START (R20). -/
def execClockOutputStart (output mCycles : Nat) (s : State) : Host.Outcome State Fault Refusal :=
  s.onLive (fun h => h.outputStart output mCycles)

/-- CLOCK_OUTPUT_PERIOD_END (R22). -/
def execClockOutputPeriodEnd (output mCycles : Nat) (atFrame : Bool) (s : State) : Host.Outcome State Fault Refusal :=
  s.onLive (fun h => h.outputPeriodEnd output mCycles atFrame)

/-- GET_OUTPUTS (R31). -/
def execGetOutputs (tag : Tag) (body : List Byte) (s : State) : Host.Outcome State Fault Refusal :=
  s.onHub (fun h => h.command 0x11 getOutputs tag body)

/-- SET_TALLY (R26). -/
def execSetTally (tag : Tag) (body : List Byte) (s : State) : Host.Outcome State Fault Refusal :=
  s.onHub (fun h => h.command 0x12 setTally tag body)

/-- RUN_TALLY (R28). -/
def execRunTally (tag : Tag) (body : List Byte) (s : State) : Host.Outcome State Fault Refusal :=
  s.onHub (fun h => h.command 0x13 runTally tag body)

/-- STOP_TALLY (R30). -/
def execStopTally (tag : Tag) (body : List Byte) (s : State) : Host.Outcome State Fault Refusal :=
  s.onHub (fun h => h.command 0x14 stopTally tag body)

end Sys2Proof.Machine
end

