-- ==== Sys2Proof/Machine/Streams.lean ====
section
/-! DEFINITION. Chapter 3: the stream table, slot claims, page allocation, the stream state machine and the allowance
(R32 to R49), with the start and stop computations of both directions (R67 to R70, R76, R77, R81). -/

namespace Sys2Proof.Machine

/-! ### Descriptors (R33, R34) -/

def capacities : List Nat := [256, 512, 1024, 2048, 4096, 8192]
def blockSizes : List Nat := [16, 32, 64, 128, 256, 512, 1024]

/-- The (port, slot) pairs of a DEFINE_STREAM map: `n` entries of four bytes from an offset. -/
def mapOf (body : List Byte) (off : Nat) : Nat → List PortSlot
  | 0 => []
  | n + 1 => ⟨byteAt body off, byteAt body (off + 1)⟩ :: mapOf body (off + 4) n

/-- The fill policy of a PLAY descriptor: code and hold limit (R33). -/
def fillOf (code limit : Nat) : Option Fill :=
  match code with
  | 0 => some .silence
  | 1 => if 1 ≤ limit ∧ limit ≤ 4096 then some (.hold limit) else none
  | _ => none

/-- The run length: code and frame count (R33). -/
def runOf (code frames : Nat) : Option RunLength :=
  match code with
  | 0 => some .continuous
  | 1 => if 1 ≤ frames then some (.counted frames) else none
  | _ => none

/-- The level watch of a CAPTURE descriptor: presence flag, meter and threshold (R33). The outer `none` is BAD_VALUE. -/
def watchOf (present meter threshold : Nat) : Option (Option Watch) :=
  match flagOf present with
  | none => none
  | some false => some none
  | some true => if meter < 32 ∧ 1 ≤ threshold ∧ threshold ≤ 92 then some (some ⟨meter, threshold⟩) else none

/-- The fields one direction uses: block size, fill, pre-roll and watch; the others are held absent (R33). -/
def directionFields (d : Direction) (body : List Byte) (capacity : Nat) :
    Option (Option Nat × Option Fill × Option Nat × Option Watch) :=
  match d with
  | .play => (fillOf (byteAt body 7) (fieldAt body 8 2)).map (fun f => (none, some f, none, none))
  | .capture =>
    let b := fieldAt body 5 2
    let r := fieldAt body 15 2
    if blockSizes.contains b = true ∧ b ≤ capacity / 2 ∧ r ≤ capacity / 2 then
      (watchOf (byteAt body 17) (byteAt body 18) (byteAt body 19)).map (fun w => (some b, none, some r, w))
    else none

/-- DEFINE_STREAM's values (R34 step 2): `none` is BAD_VALUE. -/
def descriptorOf (body : List Byte) : Option Descriptor :=
  let capacity := fieldAt body 3 2
  let n := byteAt body 21
  let map := mapOf body 22 n
  match Direction.ofCode (byteAt body 1), Format.ofCode (byteAt body 2), runOf (byteAt body 10) (fieldAt body 11 4) with
  | some d, some fmt, some run =>
    if byteAt body 0 < Config.nStreams ∧ 1 ≤ n ∧ n ≤ Config.nChannels ∧
        map.all (fun e => decide (e.port < Config.nPorts) && decide (e.slot < Config.nSlots)) = true ∧
        capacities.contains capacity = true ∧ byteAt body 20 ≤ 15 then
      (directionFields d body capacity).map (fun (b, fill, r, w) =>
        { direction := d, map := map, format := fmt, capacity := capacity, block := b, fill := fill, run := run,
          preRoll := r, watch := w, reload := byteAt body 20 })
    else none
  | _, _, _ => none

/-! ### Slot claims (R35) -/

/-- One entry of a channel map passes its checks, given the entries before it (R35). -/
def Hub.entryPasses (h : Hub) (d : Direction) (before : List PortSlot) (e : PortSlot) : Bool :=
  match h.port e.port with
  | none => false
  | some pt =>
    decide (pt.role = (match d with | .play => Role.playback | .capture => Role.capture)) && decide (e.slot < pt.slots) &&
      (match d with
       | .capture => true
       | .play => !(h.engine.claims.any (fun c => decide (c.place = e))) && !(before.contains e))

/-- Every entry of a channel map passes, in map order (R35). -/
def Hub.mapPasses (h : Hub) (d : Direction) (before : List PortSlot) : List PortSlot → Bool
  | [] => true
  | e :: rest => h.entryPasses d before e && h.mapPasses d (before ++ [e]) rest

/-! ### The sample pool (R36, R37) -/

/-- Pages that n channels at capacity C need (R36). -/
def pagesNeeded (n capacity : Nat) : Nat := (n * capacity + 1023) / Config.pageWords

/-- How many pages are free from the front of a page list. -/
def freePrefix : List (Option Nat) → Nat
  | none :: rest => freePrefix rest + 1
  | some _ :: _ => 0
  | [] => 0

/-- First fit from the lowest page (R36): the first page of the lowest free run long enough. -/
def firstFit (need : Nat) : List (Option Nat) → Nat → Option Nat
  | [], _ => none
  | o :: rest, i => if need ≤ freePrefix (o :: rest) then some i else firstFit need rest (i + 1)

/-- Set `n` entries of a list from an index. -/
def setRange {α : Type} : List α → Nat → Nat → α → List α
  | [], _, _, _ => []
  | x :: rest, 0, 0, _ => x :: rest
  | _ :: rest, 0, n + 1, v => v :: setRange rest 0 n v
  | x :: rest, f + 1, n, v => x :: setRange rest f n v

/-- The pages of a stream return to FREE (R36). -/
def freePages (pages : List (Option Nat)) (i : Nat) : List (Option Nat) :=
  pages.map (fun o => if o = some i then none else o)

/-- A run of pages of one owner, or FREE (R48). -/
structure PageRun where
  first : Nat
  length : Nat
  owner : Option Nat
deriving DecidableEq, Repr, Inhabited

/-- The page map as a list of runs in ascending page order (R48). -/
def pageRuns : List (Option Nat) → Nat → List PageRun
  | [], _ => []
  | o :: rest, i =>
    match pageRuns rest (i + 1) with
    | r :: more => if r.owner = o then ⟨i, r.length + 1, o⟩ :: more else ⟨i, 1, o⟩ :: r :: more
    | [] => [⟨i, 1, o⟩]

/-- The word of the pool that holds channel 0 of the frame at position p (R37). -/
def Stream.frameWord (st : Stream) (p : Nat) : Nat :=
  st.firstPage * Config.pageWords + (p % st.desc.capacity) * st.desc.map.length

/-! ### Stream records (R38, R39, R44) -/

/-- A ring made empty: PLAY has no slot marked written and no report mark; CAPTURE holds no position (R37, R50, R57). -/
def Stream.clearRing (st : Stream) : Stream := { st with written := [], marks := [], ringLow := 0, ringHigh := 0 }

/-- The runtime record at DEFINE_STREAM (R38). The not-running marks of a ring whose slots no frame has been written to start clear (DESIGN
CHOICE, log 63). -/
def Stream.defined (d : Descriptor) (first count : Nat) : Stream :=
  { desc := d, firstPage := first, pageCount := count, state := .idle, allowance := d.reload, arm := none, start := none,
    stop := none, stopReason := .stopped, clamped := false, raised := false, muted := false, marks := [],
    lastOut := List.replicate d.map.length 0, gapRun := 0, written := [], dp := none, disc := false, notRunning := [],
    ringLow := 0, ringHigh := 0 }

/-- The runtime record at ARM_STREAM (R38, R39). -/
def Stream.armedAt (st : Stream) (now : Nat) : Stream :=
  { Stream.defined st.desc st.firstPage st.pageCount with
    state := .armed, arm := some now, notRunning := st.notRunning, ringLow := now, ringHigh := now }

/-- Entry to HALTED (R44, R88): the ring is cleared, and undelivered frames and report marks are dropped. -/
def Stream.halt (st : Stream) : Stream := { st.clearRing with state := .halted }

/-- Return to IDLE with the ring cleared (R41, R68, R83, R84). -/
def Stream.toIdle (st : Stream) : Stream := { st.clearRing with state := .idle }

/-- Post STREAM_STATE for a stream as it stands (R45). -/
def Hub.postStream (h : Hub) (i : Nat) (reason : StreamReason) : Hub :=
  match h.stream i with
  | none => h
  | some st => h.post (.streamState i st.state reason st.clamped st.raised st.start st.stop)

/-- Replace a stream's record and post its change of state (R45). -/
def Hub.changeStream (h : Hub) (i : Nat) (st : Stream) (reason : StreamReason) : Hub := (h.putStream i st).postStream i reason

/-- One tolerated fault (R43): the allowance goes down by one, and the answer tells whether it reached 0 with a nonzero reload. -/
def Stream.charge (st : Stream) : Stream × Bool :=
  ({ st with allowance := st.allowance - 1 }, decide (st.allowance = 1) && decide (st.desc.reload ≠ 0))

/-- Charge a stream; a stream whose allowance is exhausted becomes HALTED (R43). -/
def Hub.chargeStream (h : Hub) (i : Nat) : Hub :=
  match h.stream i with
  | none => h
  | some st =>
    if st.charge.2 then h.changeStream i st.charge.1.halt .allowance else h.putStream i st.charge.1

/-! ### Triggers (R40, R67, R70, R76, R77) -/

/-- E of a counted run that starts at S (R40). -/
def countedEnd (run : RunLength) (start : Nat) : Option Nat :=
  match run with
  | .continuous => none
  | .counted l => some (start + l)

/-- The start of a capture take: max(T − R, a, N − C + B), as signed whole numbers (R76). -/
def Stream.captureStart (st : Stream) (t now : Nat) : Int :=
  max (max ((t : Int) - (st.desc.preRoll.getD 0 : Nat)) ((st.arm.getD 0 : Nat) : Int))
    ((now : Int) - (st.desc.capacity : Int) + ((st.desc.block.getD 0 : Nat) : Int))

/-- A PLAY stream as a trigger leaves it, RUNNING (R40, R67). -/
def Stream.playTriggered (st : Stream) (t : Nat) : Stream :=
  { st with
    state := .running, start := some t, stop := countedEnd st.desc.run t,
    stopReason := if (countedEnd st.desc.run t).isSome then .countDone else .stopped, clamped := false }

/-- A CAPTURE stream as a trigger leaves it, RUNNING (R76). -/
def Stream.captureTriggered (st : Stream) (t now : Nat) : Stream :=
  let s := st.captureStart t now
  { st with
    state := .running, start := some s.toNat, stop := countedEnd st.desc.run s.toNat,
    stopReason := if (countedEnd st.desc.run s.toNat).isSome then .countDone else .stopped,
    clamped := decide (s ≠ (t : Int) - (st.desc.preRoll.getD 0 : Nat)), dp := some s.toNat, disc := false,
    ringLow := s.toNat }

/-- A trigger with position T reaches a stream with N = now (R40). An ARMED stream becomes RUNNING; a counted run that is
already over at the trigger ends within the trigger's event (R70 for PLAY, R77 for CAPTURE). Any other stream is not touched. -/
def Hub.trigger (h : Hub) (i t now : Nat) (reason : StreamReason) : Hub :=
  match h.stream i with
  | none => h
  | some st =>
    if st.state = .armed then
      match st.desc.direction with
      | .play =>
        let st1 := st.playTriggered t
        let h1 := h.changeStream i st1 reason
        match st1.stop with
        | some e => if e < now then h1.changeStream i st1.toIdle .countDone else h1
        | none => h1
      | .capture =>
        let st1 := st.captureTriggered t now
        let h1 := h.changeStream i st1 reason
        match st1.stop with
        | some e => if e ≤ now then h1.changeStream i { st1 with state := .draining } .countDone else h1
        | none => h1
    else h

/-! ### Stops (R41, R42, R69, R81) -/

/-- The stop position kept, with its reason (R42): the earlier of the one in force and the new one; at equality the one in force. -/
def Stream.keepStop (st : Stream) (e : Nat) : Nat × StreamReason :=
  match st.stop with
  | none => (e, .stopped)
  | some e0 => if e < e0 then (e, .stopped) else (e0, st.stopReason)

/-- A stop reaches a RUNNING PLAY stream: E is set or kept (R42); an E before the first frame not yet settled ends the run at once (R69). -/
def Hub.stopPlay (h : Hub) (i : Nat) (st : Stream) (e now : Nat) : Hub :=
  let (kept, reason) := st.keepStop e
  let st1 := { st with stop := some kept, stopReason := reason }
  if st.stop ≠ some kept ∧ kept < now then h.changeStream i st1.toIdle .stopped else h.putStream i st1

/-- A stop reaches a RUNNING CAPTURE stream (R81): the position kept is raised to Dp; at or below N the stream becomes DRAINING. -/
def Hub.stopCapture (h : Hub) (i : Nat) (st : Stream) (e now : Nat) : Hub :=
  let (kept, reason) := st.keepStop e
  let dp := st.dp.getD kept
  let st1 := { st with stop := some (max kept dp), stopReason := reason, raised := decide (kept < dp) }
  if max kept dp ≤ now then h.changeStream i { st1 with state := .draining } reason else h.putStream i st1

/-- A stop with position e reaches a stream with N = now (R41). `command`: by STOP_STREAM, which abandons a DRAINING take. The
answer is false when the stop has no effect on the stream's state (DRAINING by cue or binding). -/
def Hub.stopStream (h : Hub) (i e now : Nat) (command : Bool) : Hub × Bool :=
  match h.stream i with
  | none => (h, false)
  | some st =>
    match st.state with
    | .idle => (h, true)
    | .armed => (h.changeStream i st.toIdle .stopped, true)
    | .running =>
      match st.desc.direction with
      | .play => (h.stopPlay i st e now, true)
      | .capture => (h.stopCapture i st e now, true)
    | .draining => if command then (h.changeStream i st.toIdle .abandoned, true) else (h, false)
    | .halted => (h.changeStream i { st with state := .idle, allowance := st.desc.reload } .stopped, true)

/-! ### Mute (R65) -/

/-- A PLAY stream in ARMED or RUNNING, the only ones a mute change acts on (R65). -/
def Stream.mutable (st : Stream) : Bool :=
  decide (st.desc.direction = .play) && (decide (st.state = .armed) || decide (st.state = .running))

/-! ### Handlers -/

/-- DEFINE_STREAM's handler (R34): shape, values, entry, map, pool, in this order. -/
def defineStream : Handler := fun h _ body =>
  if countedShape body 22 21 4 = false then h.refuse .malformed
  else
    match descriptorOf body with
    | none => h.refuse .badValue
    | some d =>
      let i := byteAt body 0
      if (h.stream i).isSome then h.refuse .conflict
      else if h.mapPasses d.direction [] d.map = false then h.refuse .conflict
      else
        let need := pagesNeeded d.map.length d.capacity
        match firstFit need h.engine.pages 0 with
        | none => h.refuse .full
        | some first =>
          let claims := match d.direction with
            | .play => d.map.map (fun e => (⟨e, i⟩ : Claim))
            | .capture => []
          (h.withEngine { h.engine with
            streams := h.engine.streams.set i (some (Stream.defined d first need))
            pages := setRange h.engine.pages first need (some i)
            claims := h.engine.claims ++ claims }).accept (oneByte first :: bytesOf 2 need)

/-- The checks every one-byte stream command begins with (R32): shape, number, definedness. -/
def withStream (h : Hub) (body : List Byte) (f : Nat → Stream → Hub × Handled) : Hub × Handled :=
  if body.length ≠ 1 then h.refuse .malformed
  else if Config.nStreams ≤ byteAt body 0 then h.refuse .badValue
  else
    match h.stream (byteAt body 0) with
    | none => h.refuse .noSuch
    | some st => f (byteAt body 0) st

/-- ARM_STREAM's handler (R39). -/
def armStream : Handler := fun h _ body =>
  withStream h body (fun i st =>
    if st.state = .idle ∨ st.state = .halted then
      (h.changeStream i (st.armedAt h.clock.n) .arm).accept (bytesOf 6 h.clock.n)
    else h.refuse .busy)

/-- S, E when set, and CLAMPED, as TRIGGER_STREAM replies them. -/
def triggerFields (st : Option Stream) : List Byte :=
  match st with
  | none => []
  | some st => bytesOf 6 (st.start.getD 0) ++ optBytes 6 st.stop ++ [flagByte st.clamped]

/-- TRIGGER_STREAM's handler (R40): T is now. -/
def triggerStream : Handler := fun h _ body =>
  withStream h body (fun i st =>
    if st.state = .armed then
      let h1 := h.trigger i h.clock.n h.clock.n .triggerCommand
      h1.accept (triggerFields (h1.stream i))
    else h.refuse .busy)

/-- STOP_STREAM's handler (R41): E is now. The reply carries the E in force of a stream that was RUNNING. -/
def stopStream : Handler := fun h _ body =>
  withStream h body (fun i st =>
    let h1 := (h.stopStream i h.clock.n h.clock.n true).1
    h1.accept (optBytes 6 (if st.state = .running then (h1.stream i).bind Stream.stop else none)))

/-- DELETE_STREAM's handler (R46). -/
def deleteStream : Handler := fun h _ body =>
  withStream h body (fun i st =>
    if st.state = .idle ∨ st.state = .halted then
      (h.withEngine { h.engine with
        streams := h.engine.streams.set i none
        pages := freePages h.engine.pages i
        claims := h.engine.claims.filter (fun c => decide (c.stream ≠ i)) }).accept []
    else h.refuse .busy)

/-- The undelivered frames of a stream (R47): N − Dp in RUNNING, E − Dp in DRAINING, 0 otherwise. -/
def Stream.undelivered (st : Stream) (n : Nat) : Nat :=
  match st.desc.direction, st.state with
  | .capture, .running => n - st.dp.getD n
  | .capture, .draining => st.stop.getD 0 - st.dp.getD 0
  | _, _ => 0

/-- A descriptor in DEFINE_STREAM form; absent fields are zero (R47, R185). -/
def Descriptor.bytes (d : Descriptor) (i : Nat) : List Byte :=
  [oneByte i, oneByte d.direction.code, oneByte d.format.code] ++ bytesOf 2 d.capacity ++ bytesOf 2 (d.block.getD 0) ++
    (match d.fill with
     | some (.hold l) => 1 :: bytesOf 2 l
     | some .silence => zeros 3
     | none => zeros 3) ++
    (match d.run with
     | .continuous => zeros 5
     | .counted l => 1 :: bytesOf 4 l) ++
    bytesOf 2 (d.preRoll.getD 0) ++
    (match d.watch with
     | some w => [1, oneByte w.meter, oneByte w.threshold]
     | none => zeros 3) ++
    [oneByte d.reload, oneByte d.map.length] ++
    d.map.flatMap (fun e => [oneByte e.port, oneByte e.slot, 0, 0])

/-- GET_STREAM's result fields (R47, R186). -/
def Stream.bytes (st : Stream) (i n : Nat) : List Byte :=
  st.desc.bytes i ++ [oneByte st.state.code, oneByte st.allowance, oneByte st.firstPage] ++ bytesOf 2 st.pageCount ++
    optBytes 6 st.arm ++ optBytes 6 st.start ++ optBytes 6 st.stop ++
    [flagByte st.clamped, flagByte st.muted, oneByte st.marks.length] ++
    (numbers 0 4).flatMap (fun k => bytesOf 6 (st.marks.getD k 0)) ++
    bytesOf 2 st.gapRun ++ bytesOf 2 st.written.length ++ optBytes 6 st.dp ++ bytesOf 2 (st.undelivered n)

/-- GET_STREAM's handler (R47). -/
def getStream : Handler := fun h _ body =>
  withStream h body (fun i st => h.accept (st.bytes i h.clock.n))

/-- GET_POOL's handler (R48). -/
def getPool : Handler := fun h _ body =>
  if body.length ≠ 0 then h.refuse .malformed
  else
    let runs := pageRuns h.engine.pages 0
    let free := runs.filter (fun r => r.owner.isNone)
    h.accept (bytesOf 2 ((free.map PageRun.length).foldl (· + ·) 0) ++ bytesOf 2 ((free.map PageRun.length).foldl max 0) ++
      [oneByte runs.length] ++
      runs.flatMap (fun r => [oneByte r.first] ++ bytesOf 2 r.length ++ [oneByte (r.owner.getD 255)]))

/-! ### Meanings -/

/-- DEFINE_STREAM (R34). -/
def execDefineStream (tag : Tag) (body : List Byte) (s : State) : Host.Outcome State Fault Refusal :=
  s.onHub (fun h => h.command 0x20 defineStream tag body)

/-- ARM_STREAM (R39). -/
def execArmStream (tag : Tag) (body : List Byte) (s : State) : Host.Outcome State Fault Refusal :=
  s.onHub (fun h => h.command 0x21 armStream tag body)

/-- TRIGGER_STREAM (R40). -/
def execTriggerStream (tag : Tag) (body : List Byte) (s : State) : Host.Outcome State Fault Refusal :=
  s.onHub (fun h => h.command 0x22 triggerStream tag body)

/-- STOP_STREAM (R41). -/
def execStopStream (tag : Tag) (body : List Byte) (s : State) : Host.Outcome State Fault Refusal :=
  s.onHub (fun h => h.command 0x23 stopStream tag body)

/-- DELETE_STREAM (R46). -/
def execDeleteStream (tag : Tag) (body : List Byte) (s : State) : Host.Outcome State Fault Refusal :=
  s.onHub (fun h => h.command 0x24 deleteStream tag body)

/-- GET_STREAM (R47). -/
def execGetStream (tag : Tag) (body : List Byte) (s : State) : Host.Outcome State Fault Refusal :=
  s.onHub (fun h => h.command 0x25 getStream tag body)

/-- GET_POOL (R48). -/
def execGetPool (tag : Tag) (body : List Byte) (s : State) : Host.Outcome State Fault Refusal :=
  s.onHub (fun h => h.command 0x26 getPool tag body)

end Sys2Proof.Machine
end

