-- ==== Sys2Proof/Machine/Playback.lean ====
section
/-! DEFINITION. Chapter 4: a play block's checks and placement (R51 to R58) and what each frame boundary does for every play
stream (R60 to R70). -/

namespace Sys2Proof.Machine

/-! ### Samples (R56) -/

/-- Bytes per sample of a host format. -/
def Format.width : Format → Nat
  | .s16 => 2
  | .s24 => 3
  | .s32 => 4

/-- The byte at an offset as it is. -/
def rawByte (body : List Byte) (off : Nat) : Byte := body.getD off 0

/-- A host sample at an offset as the part's 24-bit value (R56): S16 times 256, S24 as it is, S32 without its low byte. -/
def sampleAt (fmt : Format) (body : List Byte) (off : Nat) : Sample :=
  match fmt with
  | .s16 => rawByte body (off + 1) ++ rawByte body off ++ (0 : Byte)
  | .s24 => rawByte body (off + 2) ++ rawByte body (off + 1) ++ rawByte body off
  | .s32 => rawByte body (off + 3) ++ rawByte body (off + 2) ++ rawByte body (off + 1)

/-! ### Placement (R55, R57) -/

/-- Write the channels of one frame, which starts at a byte offset of the block, to the words from `word` (R55). -/
def writeFrame (fmt : Format) (body : List Byte) (off word channels : Nat) (pool : List (Nat × Sample)) : List (Nat × Sample) :=
  forEach channels 0 (fun pool c => poolWrite pool (word + c) (sampleAt fmt body (off + c * fmt.width))) pool

/-- The byte offset of the frame of position p in a play block that starts at p0 (R185: ten fixed bytes come first). -/
def frameOffset (st : Stream) (p0 p : Nat) : Nat := 10 + (p - p0) * (st.desc.map.length * st.desc.format.width)

/-- Place the frames of positions lo to lo + n − 1 in the pool (R55). -/
def placeSamples (st : Stream) (body : List Byte) (p0 lo n : Nat) (pool : List (Nat × Sample)) : List (Nat × Sample) :=
  forEach n lo (fun pool p =>
    writeFrame st.desc.format body (frameOffset st p0 p) (st.frameWord p) st.desc.map.length pool) pool

/-- Mark the slots of positions lo to lo + n − 1 written, each with its position (R50, R55). -/
def placeMarks (capacity lo n : Nat) (written : List (Nat × Nat)) : List (Nat × Nat) :=
  forEach n lo (fun written p => cellPut written (p % capacity) p) written

/-- Enter a report mark (R57). -/
def enterMark (marks : List Nat) (m : Nat) : List Nat :=
  if marks.contains m then marks
  else if marks.length < Config.nMarks then insertAsc marks m
  else if marks.getLastD 0 < m then marks.dropLast ++ [m]
  else marks

/-- Place a block's frames of positions lo to hi − 1 (R55), and record its report mark at hi − 1 when asked (R57). -/
def Hub.place (h : Hub) (i : Nat) (st : Stream) (body : List Byte) (p0 lo hi : Nat) : Hub :=
  let st1 := { st with
    written := placeMarks st.desc.capacity lo (hi - lo) st.written
    marks := if reportPlayed (byteAt body 1) then enterMark st.marks (hi - 1) else st.marks }
  (h.withEngine { h.engine with pool := placeSamples st body p0 lo (hi - lo) h.engine.pool }).putStream i st1

/-! ### Checking a play block (R51 to R54, R58) -/

/-- The shape check (R52): F is 1 to 1,024, the sample bytes are F × n × b, and they are at most 16,384. -/
def shapeFits (st : Stream) (body : List Byte) : Bool :=
  let f := fieldAt body 2 2
  let bytes := body.length - 10
  decide (1 ≤ f) && decide (f ≤ 1024) && decide (bytes = f * st.desc.map.length * st.desc.format.width) && decide (bytes ≤ 16384)

/-- Refuse a block with a reason that costs one of the allowance (R43, R58). -/
def Hub.refuseBlock (h : Hub) (i : Nat) (reason : BlockReason) (p0 f : Nat) : Hub :=
  (h.post (.blockRefused i reason p0 f)).chargeStream i

/-- Post the cuts of a block that overlaps the window [n, n + C): the head first, then the tail (R54, R58). -/
def Hub.postCuts (h : Hub) (i p0 f n capacity : Nat) : Hub :=
  let h1 := if p0 < n then h.post (.blockRefused i .headTrimmed p0 (n - p0)) else h
  if n + capacity < p0 + f then h1.post (.blockRefused i .tailTruncated p0 (p0 + f - (n + capacity))) else h1

/-- A block that names a PLAY stream in ARMED or RUNNING (R52 to R55). -/
def Hub.checkBlock (h : Hub) (i : Nat) (st : Stream) (body : List Byte) : Hub :=
  let f := fieldAt body 2 2
  let p0 := fieldAt body 4 6
  let n := h.clock.n
  let c := st.desc.capacity
  if shapeFits st body = false then h.refuseBlock i .malformed p0 f
  else if p0 + f ≤ n then h.refuseBlock i .late p0 f
  else if n + c ≤ p0 then h.refuseBlock i .early p0 f
  else (h.postCuts i p0 f n c).place i st body p0 (max p0 n) (min (p0 + f) (n + c))

/-- The Stream Engine takes a play block (R51, R174). -/
def Hub.takePlayBlock (h : Hub) (body : List Byte) : Hub :=
  let i := byteAt body 0
  let f := fieldAt body 2 2
  let p0 := fieldAt body 4 6
  if body.length < 10 then
    h.post (.blockRefused (if body.length = 0 then 255 else i) .malformed 0 0)
  else
    match h.stream i with
    | none => h.post (.blockRefused i .noStream p0 f)
    | some st =>
      match st.desc.direction with
      | .capture => h.post (.blockRefused i .noStream p0 f)
      | .play =>
        if st.state = .armed ∨ st.state = .running then h.checkBlock i st body
        else h.post (.blockRefused i .notArmed p0 f)

/-! ### Playout at the frame boundary (R60 to R66) -/

/-- The samples of a frame in the ring, channel by channel. -/
def frameSamples (pool : List (Nat × Sample)) (word channels : Nat) : List Sample :=
  (numbers 0 channels).map (fun c => poolRead pool (word + c))

/-- What a stream makes of frame p (R62, R63). -/
inductive FrameKind where
  /-- ARMED, muted, or before S: 0 is output -/
  | silent
  /-- written and output -/
  | heard
  /-- a gap frame -/
  | gap
deriving DecidableEq, Repr, Inhabited

/-- Which row of R62's table frame p falls under. -/
def Stream.frameKind (st : Stream) (p : Nat) : FrameKind :=
  if st.state = .running ∧ (∃ s, st.start = some s ∧ s ≤ p) ∧ st.muted = false then
    if cellGet st.written (p % st.desc.capacity) = some p then .heard else .gap
  else .silent

/-- What a gap frame outputs, given the gap run after it was counted (R63). -/
def Stream.fillOutput (st : Stream) (run : Nat) : List Sample :=
  match st.desc.fill with
  | some (.hold limit) => if run ≤ limit then st.lastOut else st.lastOut.map (fun _ => 0)
  | some .silence => st.lastOut.map (fun _ => 0)
  | none => st.lastOut.map (fun _ => 0)

/-- Settle frame p of a stream: what its channels output, and the record after it; the ring slot is consumed (R60, R62, R63). -/
def Stream.settle (st : Stream) (pool : List (Nat × Sample)) (p : Nat) : List Sample × Stream :=
  let consumed := { st with written := cellDrop st.written (p % st.desc.capacity) }
  match st.frameKind p with
  | .silent => (st.desc.map.map (fun _ => 0), consumed)
  | .heard =>
    let out := frameSamples pool (st.frameWord p) st.desc.map.length
    (out, { consumed with lastOut := out, gapRun := 0 })
  | .gap =>
    let run := min (st.gapRun + 1) 65535
    (st.fillOutput run, { consumed with gapRun := run })

/-- Pair the slots of a map with the samples settled for them. -/
def settledOf : List PortSlot → List Sample → List Settled
  | e :: es, v :: vs => ⟨e, v⟩ :: settledOf es vs
  | _, _ => []

/-- The frame at the lowest report mark is taken (R66): the mark goes, and PLAYED is posted. -/
def Hub.reportMark (h : Hub) (i p : Nat) : Hub :=
  match h.stream i with
  | none => h
  | some st =>
    match st.marks with
    | m :: rest => if m = p then (h.putStream i { st with marks := rest }).post (.played i p) else h
    | [] => h

/-- Settle frame p of an ARMED or RUNNING PLAY stream that does not end there, with its notices (R60, R64, R66). -/
def Hub.settleFrame (h : Hub) (i : Nat) (st : Stream) (p : Nat) : Hub :=
  let (out, st1) := st.settle h.engine.pool p
  let h1 := (h.withEngine { h.engine with settled := h.engine.settled ++ settledOf st.desc.map out }).putStream i st1
  let h2 := if st.frameKind p = .gap then h1.post (.streamGap i p 1) else h1
  h2.reportMark i p

/-- The boundary that begins frame p, for one stream: a run whose E is p ends there (R68); otherwise the frame is settled (R60). -/
def Hub.playBoundary (p : Nat) (h : Hub) (i : Nat) : Hub :=
  match h.stream i with
  | none => h
  | some st =>
    match st.desc.direction with
    | .capture => h
    | .play =>
      match st.state with
      | .armed => h.settleFrame i st p
      | .running =>
        if st.stop = some p then h.changeStream i st.toIdle st.stopReason else h.settleFrame i st p
      | .idle => h
      | .draining => h
      | .halted => h

/-- The Stream Engine settles frame p for every play stream (R60). -/
def Hub.settlePlay (h : Hub) (p : Nat) : Hub :=
  forEach Config.nStreams 0 (Hub.playBoundary p) (h.withEngine { h.engine with settled := [] })

/-- The sample settled for a slot; an unclaimed slot is 0 (R62). -/
def StreamEngine.settledAt (e : StreamEngine) (place : PortSlot) : Sample :=
  match e.settled.find? (fun s => decide (s.place = place)) with
  | some s => s.value
  | none => 0

/-! ### Meaning -/

/-- PLAY_BLOCK (R51): a play block dispatched to the Stream Engine. It needs no reply entry; while the link carries no
message, or a command is paused, it is not taken (R177). -/
def execPlayBlock (body : List Byte) (s : State) : Host.Outcome State Fault Refusal :=
  s.onHub (fun h => if h.takesMessages then h.takePlayBlock body else h)

end Sys2Proof.Machine
end

