-- ==== Sys2Proof/Machine/Capture.lean ====
section
/-! DEFINITION. Chapter 5: the capture ring at the frame boundary (R71 to R73, R79, R81), the block a stream offers (R78, R82)
and what a taken block carries (R80, R83, R85 to R87). -/

namespace Sys2Proof.Machine

/-! ### Writing frame p (R71, R72, R79) -/

/-- What a capture port yields for a slot (R119); any other port, and a slot not below the slot count, yields 0. -/
def Hub.yieldAt (h : Hub) (e : PortSlot) : Sample :=
  match h.port e.port with
  | none => 0
  | some pt => if pt.role = .capture then pt.yielded.getD e.slot 0 else 0

/-- A port of the map yielded the frame while not RUNNING (R72). -/
def Hub.yieldedIdle (h : Hub) (map : List PortSlot) : Bool :=
  map.any (fun e => match h.port e.port with
    | none => true
    | some pt => pt.yieldIdle)

/-- Write the channels of a captured frame from a word of the pool (R71). -/
def writeCaptured (h : Hub) (map : List PortSlot) (word : Nat) (pool : List (Nat × Sample)) : List (Nat × Sample) :=
  match map with
  | [] => pool
  | e :: rest => writeCaptured h rest (word + 1) (poolWrite pool word (h.yieldAt e))

/-- The ring's range after frame p is written: in ARMED the oldest position leaves a full ring (R73). -/
def Stream.recordFrame (st : Stream) (p : Nat) (idle : Bool) : Stream :=
  { st with
    notRunning := memberSet st.notRunning (p % st.desc.capacity) idle
    ringLow := if st.state = .armed then max st.ringLow (p + 1 - st.desc.capacity) else st.ringLow
    ringHigh := p + 1 }

/-- Write frame p into a capture ring, with its not-running mark (R71, R72). -/
def Hub.writeFrame (h : Hub) (i : Nat) (st : Stream) (p : Nat) : Hub :=
  (h.withEngine { h.engine with pool := writeCaptured h st.desc.map (st.frameWord p) h.engine.pool }).putStream i
    (st.recordFrame p (h.yieldedIdle st.desc.map))

/-- A ring is full when frame p is to be written: p − Dp = C (R79). -/
def Stream.overruns (st : Stream) (p : Nat) : Bool :=
  match st.dp with
  | none => false
  | some dp => decide (dp + st.desc.capacity = p)

/-- An overrun (R79): the oldest undelivered block is dropped, Dp advances by B, DISCONTINUITY is pending, one fault is charged. -/
def Stream.overrun (st : Stream) : Stream :=
  let dp := st.dp.getD 0 + st.desc.block.getD 0
  { st.charge.1 with dp := some dp, ringLow := dp, disc := true }

/-- The boundary that begins frame p, for one capture stream (R71, R79, R81). -/
def Hub.captureBoundary (p : Nat) (h : Hub) (i : Nat) : Hub :=
  match h.stream i with
  | none => h
  | some st =>
    match st.desc.direction with
    | .play => h
    | .capture =>
      match st.state with
      | .armed => h.writeFrame i st p
      | .running =>
        if st.stop = some p then h.changeStream i { st with state := .draining } st.stopReason
        else if st.overruns p then
          let h1 := h.writeFrame i st.overrun p
          if st.charge.2 then
            (match h1.stream i with
             | none => h1
             | some st1 => h1.changeStream i st1.halt .allowance)
          else h1
        else h.writeFrame i st p
      | .idle => h
      | .draining => h
      | .halted => h

/-- Every capture stream's work at the boundary that begins frame p. -/
def Hub.captureWrite (h : Hub) (p : Nat) : Hub := forEach Config.nStreams 0 (Hub.captureBoundary p) h

/-! ### Offered blocks (R78, R82) -/

/-- A block a stream offers. -/
structure Offer where
  stream : Nat
  start : Nat
  frames : Nat
  final : Bool
deriving DecidableEq, Repr, Inhabited

/-- The block a capture stream offers when N = n: in RUNNING a ready block of B frames (R78); in DRAINING R82's table. -/
def Stream.offer (st : Stream) (i n : Nat) : Option Offer :=
  match st.desc.direction, st.state, st.dp, st.desc.block with
  | .capture, .running, some dp, some b => if dp + b ≤ n then some ⟨i, dp, b, false⟩ else none
  | .capture, .draining, some dp, some b =>
    let left := st.stop.getD dp - dp
    if b < left then some ⟨i, dp, b, false⟩ else some ⟨i, dp, left, true⟩
  | _, _, _, _ => none

/-- The offered block the arbiter takes: the lowest start position, and at equal positions the lower stream number (R178). -/
def betterOffer (best : Option Offer) (new : Option Offer) : Option Offer :=
  match best, new with
  | none, new => new
  | some b, none => some b
  | some b, some o => if o.start < b.start then some o else some b

def Hub.bestOffer (h : Hub) : Option Offer :=
  forEach Config.nStreams 0 (fun best i =>
    betterOffer best ((h.stream i).bind (fun st => st.offer i h.clock.n))) none

/-! ### A taken block (R80, R85, R86, R87) -/

/-- A sample in the host format (R87): S24 as it is, S32 times 256, S16 rounded halves upward and limited. -/
def hostSample (fmt : Format) (v : Sample) : List Byte :=
  match fmt with
  | .s24 => bytesOf 3 v.toNat
  | .s32 => 0 :: bytesOf 3 v.toNat
  | .s16 => bytesOf 2 ((min 32767 ((v.toInt + 128) / 256)) % 65536).toNat

/-- The sample data of the frames from `start`, in position order and map order. -/
def blockData (st : Stream) (pool : List (Nat × Sample)) (start frames : Nat) : List Byte :=
  (numbers start frames).flatMap (fun p =>
    (frameSamples pool (st.frameWord p) st.desc.map.length).flatMap (hostSample st.desc.format))

/-- At least one frame of the block carries the not-running mark (R86). -/
def Stream.blockIdle (st : Stream) (start frames : Nat) : Bool :=
  (numbers start frames).any (fun p => st.notRunning.contains (p % st.desc.capacity))

/-- A capture block's body: header fields fixed at the taking, then samples (R85, R186). -/
def captureBody (st : Stream) (o : Offer) (mark : LinkMark) (pool : List (Nat × Sample)) : List Byte :=
  [oneByte o.stream, captureFlags o.final st.disc (st.blockIdle o.start o.frames)] ++ bytesOf 2 o.frames ++
    bytesOf 6 o.start ++ bytesOf 2 mark.frame.toNat ++ bytesOf 6 mark.position ++ blockData st pool o.start o.frames

/-- The stream after its offered block is taken (R80): Dp advances, and the DISCONTINUITY it carried is no longer pending. -/
def Stream.taken (st : Stream) (o : Offer) : Stream :=
  { st with dp := some (o.start + o.frames), ringLow := o.start + o.frames, disc := false }

/-- Take an offered block: the stream's record moves on, and the FINAL block ends the take (R80, R83). -/
def Hub.takeBlock (h : Hub) (st : Stream) (o : Offer) : Hub :=
  if o.final then h.changeStream o.stream ((st.taken o).toIdle) st.stopReason
  else h.putStream o.stream (st.taken o)

end Sys2Proof.Machine
end

