-- ==== Sys2Proof/Machine/ControlBus.lean ====
section
/-! DEFINITION. Chapter 8: transactions, jobs, the arbiter, ending marks, the stuck bus and its recovery (R122 to R133),
with the outcome an INIT job hands to its port (R114, R128). -/

namespace Sys2Proof.Machine

/-! ### Transactions (R123) -/

/-- An address byte: the 7-bit device address, then the direction bit, 0 for write and 1 for read (R122). -/
def addressByte (addr : Nat) (read : Bool) : Byte := oneByte (addr * 2 + (if read then 1 else 0))

/-- How the last byte of a sequence came out: the device acknowledged a byte sent or not, the part a byte received or not. -/
def BusItem.settled (i : BusItem) (device part : Bool) : BusItem :=
  match i with
  | .sent b _ => .sent b device
  | .received b _ => .received b part
  | .start => .start
  | .repeatedStart => .repeatedStart
  | .cutSent b n => .cutSent b n
  | .cutReceived n acked => .cutReceived n acked
  | .pulse => .pulse
  | .stop => .stop
  | .released => .released

/-- A sequence whose last byte came out so. -/
def settleLast (device part : Bool) : List BusItem → List BusItem
  | [] => []
  | [i] => [i.settled device part]
  | i :: j :: rest => i :: settleLast device part (j :: rest)

/-- A byte the part sends, acknowledged. -/
def sentByte (b : Byte) : BusItem := .sent b true

/-- The bytes of a READ: the part acknowledges each but the last (R123). -/
def readItems (bytes : List Byte) : List BusItem := settleLast true false (bytes.map (fun b => .received b true))

/-- What a transaction puts on the bus between its start and its stop condition, every byte the part sends acknowledged (R123). -/
def Transaction.items (tx : Transaction) (bytes : List Byte) : List BusItem :=
  match tx with
  | .write a data => sentByte (addressByte a false) :: data.map sentByte
  | .read a reg _ =>
    [sentByte (addressByte a false), sentByte reg, .repeatedStart, sentByte (addressByte a true)] ++ readItems bytes
  | .probe a => [sentByte (addressByte a false)]

/-- The number of bytes a transaction returns when it ends DONE (R123). -/
def Transaction.reads : Transaction → Nat
  | .write _ _ => 0
  | .read _ _ n => n
  | .probe _ => 0

/-- How many items are on the bus when a transaction fails so: everything through the byte that was not acknowledged (R123). `none`:
this transaction cannot come out so. -/
def Transaction.failPoint : Transaction → TxOutcome → Option Nat
  | _, .done _ => none
  | _, .noAckAddress false => some 1
  | .read _ _ _, .noAckAddress true => some 4
  | .write _ _, .noAckAddress true => none
  | .probe _, .noAckAddress true => none
  | .write _ data, .noAckData i => if i < data.length then some (i + 2) else none
  | .read _ _ _, .noAckData i => if i = 0 then some 2 else none
  | .probe _, .noAckData _ => none

/-- What a transaction puts on the bus for an outcome (R123): all of its sequence when DONE; otherwise everything through the byte
that was not acknowledged; then a stop. `none`: this transaction cannot come out so. -/
def Transaction.wire (tx : Transaction) (o : TxOutcome) : Option (List BusItem) :=
  match o with
  | .done bytes => if bytes.length = tx.reads then some (.start :: tx.items bytes ++ [.stop]) else none
  | .noAckAddress _ => (tx.failPoint o).map (fun k => .start :: settleLast false false ((tx.items []).take k) ++ [.stop])
  | .noAckData _ => (tx.failPoint o).map (fun k => .start :: settleLast false false ((tx.items []).take k) ++ [.stop])

/-! ### The lines (R122) -/

/-- One clock cycle, CSCL pulled low and then released, with CSDA pulled low or released. -/
def clockCycle (sdaLow : Bool) : List BusDrive := [⟨true, sdaLow⟩, ⟨false, sdaLow⟩]

/-- A byte the part sends, most significant bit first, and the acknowledge slot, in which the part releases CSDA. -/
def sendDrives (b : Byte) : List BusDrive :=
  (numbers 0 8).flatMap (fun i => clockCycle (!b.getMsbD i)) ++ clockCycle false

/-- A byte the part receives, CSDA released, and the acknowledge slot, in which the part pulls CSDA low to acknowledge. -/
def receiveDrives (acked : Bool) : List BusDrive := (numbers 0 8).flatMap (fun _ => clockCycle false) ++ clockCycle acked

/-- What the part does with the two lines for each item, phase by phase (R122, R130, R131): a start is CSDA falling while CSCL is high,
a stop is CSDA rising while CSCL is high. -/
def BusItem.drives : BusItem → List BusDrive
  | .start => [⟨false, false⟩, ⟨false, true⟩]
  | .repeatedStart => [⟨true, false⟩, ⟨false, false⟩, ⟨false, true⟩]
  | .sent b _ => sendDrives b
  | .received _ acked => receiveDrives acked
  | .cutSent b bits => (sendDrives b).take (2 * bits)
  | .cutReceived bits acked => (receiveDrives acked).take (2 * bits)
  | .pulse => clockCycle false
  | .stop => [⟨true, true⟩, ⟨false, true⟩, ⟨false, false⟩]
  | .released => [⟨false, false⟩]

/-- What the part did with the lines for what it last put on them. -/
def ControlBus.waveform (b : ControlBus) : List BusDrive := b.lastWire.flatMap BusItem.drives

/-- What the part does with the lines between transactions, and while no job uses the bus: what the last item left, and both lines
released when nothing has been put on them since power-on reset (R122, R133). -/
def ControlBus.rest (b : ControlBus) : BusDrive := (b.waveform.getLast?).getD ⟨false, false⟩

/-- How a job ends (R127, R128). -/
inductive JobResult where
  | done (read : List Byte)
  | noAckAddress
  | noAckData (index : Nat)
  | stuck
  | aborted
deriving DecidableEq, Repr, Inhabited

def resultOf : TxOutcome → JobResult
  | .done bytes => .done bytes
  | .noAckAddress _ => .noAckAddress
  | .noAckData i => .noAckData i

/-- The transaction a job is at (R124): the command's, the cue's WRITE, or the WRITE of the init entry next to be done (R128). -/
def Job.transaction (j : Job) : Option Transaction :=
  match j.kind with
  | .xfer _ _ tx => some tx
  | .cue _ _ _ _ _ _ addr data => some (.write addr data)
  | .init _ writes _ => (writes[j.done]?).map (fun w => .write w.addr [w.reg, w.value])

/-- How many transactions a job performs (R124). -/
def JobKind.transactions : JobKind → Nat
  | .xfer .. => 1
  | .cue .. => 1
  | .init _ writes _ => writes.length

/-! ### The queue and the arbiter (R125, R126) -/

/-- The bus is being released after RESET_PART (R133). -/
def ControlBus.releasing (b : ControlBus) : Bool := b.release.isSome

/-- A new job finds room (R125); while the bus is being released, as with a job active (R133). -/
def ControlBus.room (b : ControlBus) : Bool :=
  (b.active.isNone && !b.releasing) || decide (b.waiting.length < Config.busWaiting)

/-- A job as it becomes active: with the condition STUCK it begins with recovery (R126, R131). -/
def Job.activated (j : Job) (stuck : Bool) : Job := { j with recovery := stuck }

/-- A new job that found room becomes active at once, or joins the end of the queue (R125). -/
def ControlBus.add (b : ControlBus) (k : JobKind) : ControlBus :=
  let j : Job := { kind := k, ending := false, recovery := false, done := 0 }
  if b.active.isNone && !b.releasing then { b with active := some (j.activated b.stuck) }
  else { b with waiting := b.waiting ++ [j] }

def JobKind.isCue : JobKind → Bool
  | .cue .. => true
  | .xfer .. => false
  | .init .. => false

/-- The place in the queue of the job the arbiter chooses: the oldest CUE job, else the oldest job (R126). -/
def chosenPlace (waiting : List Job) : Nat := (waiting.findIdx? (fun j => j.kind.isCue)).getD 0

/-- The active place is empty, and the arbiter chooses the next active job (R126). -/
def ControlBus.next (b : ControlBus) : ControlBus :=
  match b.waiting[chosenPlace b.waiting]? with
  | none => { b with active := none }
  | some j => { b with active := some (j.activated b.stuck), waiting := b.waiting.eraseIdx (chosenPlace b.waiting) }

/-! ### Outcomes (R101, R114, R127, R128) -/

/-- Post PORT_STATE for a port as it stands (R120). -/
def Hub.postPort (h : Hub) (i : Nat) (reason : PortReason) (entry : Option Nat) (byteIndex : Nat) : Hub :=
  match h.port i with
  | none => h
  | some pt => h.post (.portState i pt.state reason entry byteIndex)

/-- A port enters SETTLING (R113, R115). -/
def Port.enterSettling (pt : Port) : Port := { pt with state := .settling, remaining := some pt.settle }

/-- A port enters FAULT, with its failure recorded (R114). -/
def Port.enterFault (pt : Port) (f : PortFailure) : Port := { pt with state := .fault, failure := some f }

/-- The failure an INIT job's result records (R114); `none` when every entry was written. An INIT job has no reply, so ABORTED
is not a result of one that belongs to its port. The byte index of a reason other than NO_ACK_DATA is 0 (DESIGN CHOICE, log 52). -/
def initFailure (entry : Nat) : JobResult → Option PortFailure
  | .done _ => none
  | .aborted => none
  | .noAckAddress => some ⟨entry, .noAckAddress, 0⟩
  | .noAckData i => some ⟨entry, .noAckData, i⟩
  | .stuck => some ⟨entry, .busStuck, 0⟩

/-- The end of a port's INIT job reaches the port (R114). -/
def Hub.initOutcome (h : Hub) (i entry : Nat) (r : JobResult) : Hub :=
  match h.port i with
  | none => h
  | some pt =>
    match initFailure entry r with
    | none => (h.putPort i pt.enterSettling).postPort i .initDone none 0
    | some f => (h.putPort i (pt.enterFault f)).postPort i f.reason (some f.entry) f.byteIndex

/-- The reply of an XFER job (R127). -/
def xferReply (tag : Tag) (tx : Transaction) (r : JobResult) : Reply :=
  match r with
  | .done bytes =>
    ⟨0x48, tag, .ok, match tx with
      | .read _ _ n => oneByte n :: bytes
      | .write _ _ => []
      | .probe _ => []⟩
  | .noAckAddress => ⟨0x48, tag, .noAckAddress, []⟩
  | .noAckData i => ⟨0x48, tag, .noAckData i, []⟩
  | .stuck => ⟨0x48, tag, .busStuck, []⟩
  | .aborted => ⟨0x48, tag, .aborted, []⟩

/-- The result of a CUE job, with its byte index (R128). No command reaches a CUE job, so it is never ABORTED. The byte index of a result
other than NO_ACK_DATA is 0 (DESIGN CHOICE, log 52). -/
def cueResultOf : JobResult → CueResult × Nat
  | .done _ => (.ok, 0)
  | .noAckAddress => (.noAckAddress, 0)
  | .noAckData i => (.noAckData, i)
  | .stuck => (.busStuck, 0)
  | .aborted => (.busStuck, 0)

/-- A firing with notify set, or with a result other than OK, posts CUE_FIRED (R101). -/
def Hub.postFired (h : Hub) (tag due fire : Nat) (notify : Bool) (r : CueResult) (byteIndex : Nat) (late skipped : Bool) : Hub :=
  if notify || decide (r ≠ .ok) then h.post (.cueFired tag due fire r byteIndex late skipped) else h

/-- A job's outcome goes to its owner (R127, R128). The outcome of a detached INIT job is handed to no port. -/
def Hub.jobOutcome (h : Hub) (j : Job) (r : JobResult) : Hub :=
  match j.kind with
  | .xfer tag entry tx => h.answer entry (xferReply tag tx r)
  | .cue tag due fire notify late skipped _ _ =>
    h.postFired tag due fire notify (cueResultOf r).1 (cueResultOf r).2 late skipped
  | .init port writes detached =>
    if detached then h else h.initOutcome port (((writes[j.done]?).map InitWrite.index).getD 0) r

/-- The active job ends: its outcome goes to its owner, and the arbiter chooses the next active job (R126). -/
def Hub.endJob (h : Hub) (r : JobResult) : Hub :=
  match h.bus.active with
  | none => h
  | some j => (h.withBus h.bus.next).jobOutcome j r

/-- The result of a job that ends with a stuck bus, or with its ending mark: ABORTED under the mark (R129, R130). -/
def Job.endResult (j : Job) (r : JobResult) : JobResult := if j.ending then .aborted else r

/-! ### Events of the bus -/

/-- A transaction that ended DONE is not the job's last: the INIT job goes on to its next entry (R128). -/
def Job.goesOn (j : Job) (o : TxOutcome) : Bool :=
  !j.ending && decide (j.done + 1 < j.kind.transactions) && (match o with
    | .done _ => true
    | .noAckAddress _ => false
    | .noAckData _ => false)

/-- What a job has put on the lines when it ends early: clock pulses of its recovery, or a start condition and what followed it. `part`
tells whether the part acknowledged the last byte, if it is one the part read. -/
def Job.wireUntil (j : Job) (p : BusProgress) (part : Bool) : List BusItem :=
  if j.recovery then List.replicate (min 9 p.items) .pulse
  else
    match j.transaction with
    | none => []
    | some tx => .start :: settleLast p.acked part ((tx.items p.read).take p.items)

/-- The part acknowledges the byte it is reading: in a READ every byte but the last, its item 4 + n; under the ending mark none
(R123, R129). -/
def Job.acksNext (j : Job) (p : BusProgress) : Bool :=
  !j.ending && decide (p.items + 1 < 4 + (j.transaction.map Transaction.reads).getD 0)

/-- The byte a stuck line breaks off, if it had begun: the one the part was to send next, or one it was reading. -/
def Job.cutItem (j : Job) (p : BusProgress) : List BusItem :=
  if p.bits = 0 ∨ j.recovery = true then []
  else
    match j.transaction.bind (fun tx => (tx.items p.read)[p.items]?) with
    | some (.sent b _) => [.cutSent b p.bits]
    | _ => [.cutReceived p.bits (j.acksNext p)]

/-- What the lines show of a job with the ending mark (R129): the byte in progress completed, a byte the part was reading not
acknowledged, and a stop condition; nothing new when no transaction was open. -/
def Job.endingWire (j : Job) (progress : Option BusProgress) (old : List BusItem) : List BusItem :=
  match progress with
  | none => old
  | some p => j.wireUntil p false ++ [.stop]

/-- The part acknowledged the byte it last read, when the bus is found stuck: always with bits of a later byte on the lines; otherwise
unless it is the READ's last byte, or the byte a job with the ending mark completed (R123, R129). -/
def Job.ackedLast (j : Job) (p : BusProgress) : Bool :=
  decide (0 < p.bits) || (!j.ending && decide (p.read.length < (j.transaction.map Transaction.reads).getD 0))

/-- What the lines show of a job that finds the bus stuck (R130): both lines released, no stop condition. A stop or repeated start condition
that the stuck line breaks off shows nothing of itself (DESIGN CHOICE, log 59). -/
def Job.stuckWire (j : Job) (progress : Option BusProgress) : List BusItem :=
  match progress with
  | none => [.released]
  | some p => j.wireUntil p (j.ackedLast p) ++ j.cutItem p ++ [.released]

/-- What a recovery puts on the lines (R131): nine clock pulses with CSDA released, and a stop; both lines are released at a pulse whose
high phase did not come, and when a line is not high after the stop. `pulses` counts the pulses that came high; of the one that did not, the low
phase of CSCL is not shown (DESIGN CHOICE, log 59). -/
def recoveryWire (bothHigh : Bool) (pulses : Nat) : List BusItem :=
  if pulses < 9 then List.replicate pulses .pulse ++ [.released]
  else List.replicate 9 .pulse ++ [.stop] ++ (if bothHigh then [] else [.released])

/-- A transaction of the active job ends (R123). For a job with the ending mark, the byte in progress at the mark was the transaction's last
(R129). -/
def Hub.transactionEnd (h : Hub) (o : TxOutcome) : Hub :=
  match h.bus.active with
  | none => h
  | some j =>
    if j.recovery then h
    else
      match j.transaction.bind (fun tx => tx.wire o) with
      | none => h
      | some items =>
        let h1 := h.withBus { h.bus with lastWire := items }
        if j.goesOn o then h1.withBus { h1.bus with active := some { j with done := j.done + 1 } }
        else h1.endJob (j.endResult (resultOf o))

/-- An active job with the ending mark finishes its byte and its stop condition, or ends before a transaction (R129). -/
def Hub.markedJobEnd (h : Hub) (progress : Option BusProgress) : Hub :=
  match h.bus.active with
  | none => h
  | some j =>
    if j.ending && !j.recovery then
      (h.withBus { h.bus with lastWire := j.endingWire progress h.bus.lastWire }).endJob .aborted
    else h

/-- The release is over: the arbiter chooses among the jobs created meanwhile (R133). -/
def Hub.releaseEnd (h : Hub) (items : List BusItem) : Hub :=
  h.withBus ({ h.bus with release := none, lastWire := items } : ControlBus).next

/-- What the release of the bus leaves on the lines: what a job with the ending mark leaves, and all of a recovery in which RESET_PART came
(R129, R131, R133). -/
def Job.releaseWire (j : Job) (progress : Option BusProgress) (old : List BusItem) : List BusItem :=
  if j.recovery then recoveryWire true 9 else j.endingWire progress old

/-- The release of the bus ends as a job with the ending mark does (R129, R133). -/
def Hub.busReleaseEnd (h : Hub) (progress : Option BusProgress) : Hub :=
  match h.bus.release with
  | none => h
  | some j => h.releaseEnd (j.releaseWire progress h.bus.lastWire)

/-- A line stays low for more than 25 ms at a wait point (R130). During the release after RESET_PART it ends the release, and does
not set STUCK (R133). -/
def Hub.busStuck (h : Hub) (progress : Option BusProgress) : Hub :=
  match h.bus.active with
  | none =>
    match h.bus.release with
    | none => h
    | some j => h.releaseEnd (j.stuckWire progress)
  | some j => (h.withBus { h.bus with stuck := true, lastWire := j.stuckWire progress }).endJob (j.endResult .stuck)

/-- The recovery of the active job is over (R131). A job marked during it ends without beginning its transaction (R129). -/
def Hub.busRecoveryEnd (h : Hub) (bothHigh : Bool) (pulses : Nat) : Hub :=
  match h.bus.active with
  | none => h
  | some j =>
    if j.recovery then
      let h1 := h.withBus { h.bus with lastWire := recoveryWire bothHigh pulses }
      if 9 ≤ pulses ∧ bothHigh = true then
        let h2 := h1.withBus { h1.bus with stuck := false, active := some { j with recovery := false } }
        if j.ending then h2.endJob .aborted else h2
      else h1.endJob (j.endResult .stuck)
    else h

/-! ### Handlers -/

/-- CONVERTER_XFER's transaction (R127 step 2): `none` is BAD_VALUE. -/
def transactionOf (body : List Byte) : Option Transaction :=
  let addr := byteAt body 1
  let n := byteAt body 2
  if 127 < addr then none
  else
    match byteAt body 0 with
    | 0 => if 1 ≤ n ∧ n ≤ 16 then some (.write addr (body.drop 4)) else none
    | 1 => if 1 ≤ n ∧ n ≤ 16 then some (.read addr (rawByte body 3) n) else none
    | 2 => some (.probe addr)
    | _ => none

/-- CONVERTER_XFER's body length: the fixed fields, plus the count for a WRITE (R127 step 1). -/
def xferShape (body : List Byte) : Bool :=
  decide (4 ≤ body.length) && decide (body.length = 4 + (if byteAt body 0 = 0 then byteAt body 2 else 0))

/-- CONVERTER_XFER's handler (R127): an accepted transfer replies when its job ends. -/
def converterXfer : Handler := fun h ctx body =>
  if xferShape body = false then h.refuse .malformed
  else
    match transactionOf body with
    | none => h.refuse .badValue
    | some tx =>
      if h.bus.room then (h.withBus (h.bus.add (.xfer ctx.tag ctx.entry tx)), .deferred) else h.refuse .full

def JobKind.isXferOf (tag : Tag) : JobKind → Bool
  | .xfer t _ _ => decide (t = tag)
  | .cue .. => false
  | .init .. => false

/-- The active job is an XFER job with the tag and has no ending mark (R129). -/
def ControlBus.activeAbortable (b : ControlBus) (tag : Tag) : Option Job :=
  b.active.filter (fun j => j.kind.isXferOf tag && !j.ending)

/-- The place of the oldest waiting XFER job with the tag (R129). -/
def ControlBus.waitingXfer (b : ControlBus) (tag : Tag) : Option Nat :=
  b.waiting.findIdx? (fun j => j.kind.isXferOf tag)

/-- ABORT_XFER's handler (R129): a waiting job's ABORTED reply is queued before the reply to ABORT_XFER. -/
def abortXfer : Handler := fun h _ body =>
  if body.length ≠ 2 then h.refuse .malformed
  else
    let tag : Tag := BitVec.ofNat 16 (fieldAt body 0 2)
    match h.bus.activeAbortable tag with
    | some j => (h.withBus { h.bus with active := some { j with ending := true } }).accept []
    | none =>
      match (h.bus.waitingXfer tag).bind (fun k => (h.bus.waiting[k]?).map (fun j => (k, j))) with
      | none => h.refuse .noSuch
      | some (k, j) => ((h.withBus { h.bus with waiting := h.bus.waiting.eraseIdx k }).jobOutcome j .aborted).accept []

/-- A job record of GET_CONTROL_BUS, 13 bytes (chapter 13): fields that the kind does not use are zero. -/
def Job.record (j : Job) : List Byte :=
  [oneByte j.kind.code] ++
    (match j.kind with
     | .xfer tag _ _ => bytesOf 2 tag.toNat ++ zeros 7
     | .cue tag _ fire _ _ _ _ _ => bytesOf 2 tag ++ bytesOf 6 fire ++ zeros 1
     | .init port _ _ => zeros 8 ++ [oneByte port]) ++
    [flagByte j.ending, flagByte j.recovery, match j.kind with
      | .xfer .. => 0
      | .cue .. => 0
      | .init _ _ detached => flagByte detached]

/-- GET_CONTROL_BUS' handler (R132). -/
def getControlBus : Handler := fun h _ body =>
  if body.length ≠ 0 then h.refuse .malformed
  else
    h.accept ([flagByte h.bus.stuck] ++
      (match h.bus.active with
       | none => zeros 14
       | some j => 1 :: j.record) ++
      [oneByte h.bus.waiting.length] ++ h.bus.waiting.flatMap Job.record)

/-! ### Meanings -/

/-- CONVERTER_XFER (R127). -/
def execConverterXfer (tag : Tag) (body : List Byte) (s : State) : Host.Outcome State Fault Refusal :=
  s.onHub (fun h => h.command 0x48 converterXfer tag body)

/-- ABORT_XFER (R129). -/
def execAbortXfer (tag : Tag) (body : List Byte) (s : State) : Host.Outcome State Fault Refusal :=
  s.onHub (fun h => h.command 0x49 abortXfer tag body)

/-- GET_CONTROL_BUS (R132). -/
def execGetControlBus (tag : Tag) (body : List Byte) (s : State) : Host.Outcome State Fault Refusal :=
  s.onHub (fun h => h.command 0x4A getControlBus tag body)

/-- TRANSACTION_END (R123). -/
def execTransactionEnd (outcome : TxOutcome) (s : State) : Host.Outcome State Fault Refusal :=
  s.onLive (fun h => h.transactionEnd outcome)

/-- MARKED_JOB_END (R129). -/
def execMarkedJobEnd (s : State) (progress : Option BusProgress := none) : Host.Outcome State Fault Refusal :=
  s.onLive (fun h => h.markedJobEnd progress)

/-- BUS_STUCK (R130). -/
def execBusStuck (s : State) (progress : Option BusProgress := none) : Host.Outcome State Fault Refusal :=
  s.onLive (fun h => h.busStuck progress)

/-- BUS_RECOVERY_END (R131). -/
def execBusRecoveryEnd (bothHigh : Bool) (s : State) (pulses : Nat := 9) : Host.Outcome State Fault Refusal :=
  s.onLive (fun h => h.busRecoveryEnd bothHigh pulses)

/-- BUS_RELEASE_END (R133). -/
def execBusReleaseEnd (s : State) (progress : Option BusProgress := none) : Host.Outcome State Fault Refusal :=
  s.onLive (fun h => h.busReleaseEnd progress)

end Sys2Proof.Machine
end

