-- ==== Sys2Proof/Machine/Ports.lean ====
section
/-! DEFINITION. Chapter 7: configuring, starting and stopping a converter port, its settle count, and the wire frame it exchanges
at a frame boundary (R108 to R121). -/

namespace Sys2Proof.Machine

/-! ### Wire frames (R109, R110, R115, R118, R119) -/

/-- The divisor of M that gives BCK, fixed by slot count and rate multiple (R110's table); 0 where START_PORT refuses the pair. -/
def bckDivisor (slots multiple : Nat) : Nat := if slots * multiple ≤ 16 then 16 / (slots * multiple) else 0

/-- The sample of a slot: its first 24 bits (R110). -/
def sampleOfSlot (w : SlotWord) : Sample := w.extractLsb' 8 24

/-- The slot that carries a sample, with zeros in its last 8 bits (R110). -/
def slotOf (v : Sample) : SlotWord := v ++ (0 : BitVec 8)

/-- A SETTLING port with settle remaining 0 enters RUNNING (R115). -/
def Port.enterRunning (pt : Port) : Port := { pt with state := .running, remaining := none }

/-- The port's own share of the boundary that begins frame p: the state in which it exchanges the frame (R115). -/
def Hub.settleStep (h : Hub) (p i : Nat) : Hub :=
  match h.port i with
  | none => h
  | some pt =>
    match pt.state, pt.remaining with
    | .settling, some 0 => (h.putPort i pt.enterRunning).postAt (p + 1) (.portState i .running .settled none 0)
    | .settling, some (k + 1) => h.putPort i { pt with remaining := some k }
    | _, _ => h

/-- What a CAPTURE port yields for one slot below its slot count (R119). A RUNNING port yields what was shifted in during the
wire frame just ended; with no such frame the value is not stated, and is a free value. A port stopped and started again within one
frame, whose clocks ran for part of it, counts as one that shifted in, in every slot below its slot count, also when it was a PLAYBACK port or had
fewer slots in that wire frame and was configured anew between the two (DESIGN CHOICE, log 50). -/
def Port.yieldSlot (pt : Port) (draw i : Nat) (wire : List SlotWord) (slot : Nat) : Sample :=
  if pt.state = .running then
    (if pt.clocked then sampleOfSlot (wire.getD slot 0) else Config.unshiftedSample draw i slot)
  else 0

/-- A CAPTURE port yields frame p (R119). -/
def Port.yieldFrame (pt : Port) (draw i : Nat) (wire : List SlotWord) : Port :=
  { pt with
    yielded := if pt.role = .capture then (numbers 0 pt.slots).map (pt.yieldSlot draw i wire) else []
    yieldIdle := decide (pt.state ≠ .running) }

/-- Every port's first share of the boundary: its state for frame p, and what it yields. -/
def Hub.portsBegin (h : Hub) (p : Nat) (wire : List (List SlotWord)) : Hub :=
  forEach Config.nPorts 0 (fun h i =>
    let h1 := h.settleStep p i
    match h1.port i with
    | none => h1
    | some pt => h1.putPort i (pt.yieldFrame h1.draws i (wire.getD i []))) h

/-- What a port shifts out in the wire frame that begins now (R118): `settled` gives the sample settled for each slot. -/
def Port.shiftOut (pt : Port) (settled : Nat → Sample) : List SlotWord :=
  match pt.role, pt.state with
  | .playback, .running => (numbers 0 pt.slots).map (fun k => slotOf (settled k))
  | .playback, .off => []
  | .playback, _ => (numbers 0 pt.slots).map (fun _ => 0)
  | _, _ => []

/-- Every port begins its next wire frame, or holds its pins (R109, R118). -/
def Hub.portsShiftOut (h : Hub) : Hub :=
  forEach Config.nPorts 0 (fun h i =>
    match h.port i with
    | none => h
    | some pt =>
      h.putPort i { pt with
        clocked := decide (pt.state ≠ .off)
        sdOut := pt.shiftOut (fun k => h.engine.settledAt ⟨i, k⟩) }) h

/-- The sample of a slot as a port exchanges it in the frame in progress, for a meter (R119, R165). -/
def Hub.exchanged (h : Hub) (place : PortSlot) : Sample :=
  match h.port place.port with
  | none => 0
  | some pt =>
    match pt.role with
    | .unused => 0
    | .capture => pt.yielded.getD place.slot 0
    | .playback => sampleOfSlot (pt.sdOut.getD place.slot 0)

/-! ### Configuration (R111, R112) -/

/-- A defined stream's channel map names an entry that satisfies a test. -/
def Hub.mapped (h : Hub) (test : PortSlot → Bool) : Bool :=
  h.engine.streams.any (fun o => match o with
    | none => false
    | some st => st.desc.map.any test)

/-- CONFIGURE_PORT's stream check (R111 step 4). -/
def Hub.reconfigurable (h : Hub) (i : Nat) (pt : Port) (role : Role) (slots : Nat) : Bool :=
  (decide (role = pt.role) || !(h.mapped (fun e => decide (e.port = i)))) &&
    (decide (pt.slots ≤ slots) || !(h.mapped (fun e => decide (e.port = i) && decide (slots ≤ e.slot))))

/-- The port with a new role, slot count and settle count; a change of role takes the SD pin at once (R109, R111). -/
def Port.configured (pt : Port) (role : Role) (slots settle : Nat) : Port :=
  { pt with role := role, slots := slots, settle := settle, sdOut := if role = pt.role then pt.sdOut else [] }

/-- CONFIGURE_PORT's handler (R111). -/
def configurePort : Handler := fun h _ body =>
  if body.length ≠ 5 then h.refuse .malformed
  else
    match h.port (byteAt body 0), Role.ofCode (byteAt body 1) with
    | some pt, some role =>
      let slots := byteAt body 2
      if slots ≠ 2 ∧ slots ≠ 4 ∧ slots ≠ 8 then h.refuse .badValue
      else if pt.state ≠ .off then h.refuse .busy
      else if h.reconfigurable (byteAt body 0) pt role slots = false then h.refuse .conflict
      else (h.putPort (byteAt body 0) (pt.configured role slots (fieldAt body 3 2))).accept []
    | _, _ => h.refuse .badValue

/-- The init entries of SET_INIT_LIST, `n` of four bytes from an offset; `none` where an entry's value is bad (R112). -/
def initEntriesOf (body : List Byte) (off : Nat) : Nat → Option (List InitEntry)
  | 0 => some []
  | n + 1 =>
    match flagOf (byteAt body (off + 3)), initEntriesOf body (off + 4) n with
    | some en, some rest =>
      if byteAt body off ≤ 127 then some (⟨byteAt body off, rawByte body (off + 1), rawByte body (off + 2), en⟩ :: rest) else none
    | _, _ => none

/-- SET_INIT_LIST's handler (R112). -/
def setInitList : Handler := fun h _ body =>
  if countedShape body 2 1 4 = false then h.refuse .malformed
  else
    match h.port (byteAt body 0), initEntriesOf body 2 (byteAt body 1) with
    | some pt, some entries =>
      if Config.initCapacity < byteAt body 1 then h.refuse .badValue
      else if pt.state = .off ∨ pt.state = .fault then (h.putPort (byteAt body 0) { pt with initList := entries }).accept []
      else h.refuse .busy
    | _, _ => h.refuse .badValue

/-! ### Starting and stopping (R113, R117) -/

/-- The enabled entries of an init list with their indexes, which count disabled entries (R114). -/
def enabledWrites : List InitEntry → Nat → List InitWrite
  | [], _ => []
  | e :: rest, i =>
    if e.enabled then ⟨i, e.addr, e.reg, e.value⟩ :: enabledWrites rest (i + 1) else enabledWrites rest (i + 1)

/-- The checks every one-byte port command begins with: shape, number. -/
def withPort (h : Hub) (body : List Byte) (f : Nat → Port → Hub × Handled) : Hub × Handled :=
  if body.length ≠ 1 then h.refuse .malformed
  else
    match h.port (byteAt body 0) with
    | none => h.refuse .badValue
    | some pt => f (byteAt body 0) pt

/-- An accepted START_PORT without an enabled entry (R113). -/
def Hub.startSettling (h : Hub) (i : Nat) (pt : Port) : Hub :=
  (h.putPort i { pt.enterSettling with failure := none }).postPort i .start none 0

/-- An accepted START_PORT with an enabled entry: the port enters INIT, and its INIT job is handed over (R113). -/
def Hub.startInit (h : Hub) (i : Nat) (pt : Port) (writes : List InitWrite) : Hub :=
  ((h.withBus (h.bus.add (.init i writes false))).putPort i { pt with state := .init, failure := none }).postPort i .start none 0

/-- START_PORT's handler (R113): shape, values, state, role and rate, bus queue, in this order. -/
def startPort : Handler := fun h _ body =>
  withPort h body (fun i pt =>
    if pt.state ≠ .off then h.refuse .busy
    else if pt.role = .unused ∨ 16 < pt.slots * h.clock.rate.multiple then h.refuse .conflict
    else
      match enabledWrites pt.initList 0 with
      | [] => (h.startSettling i pt).accept [oneByte PortState.settling.code]
      | w :: ws =>
        if h.bus.room then (h.startInit i pt (w :: ws)).accept [oneByte PortState.init.code] else h.refuse .full)

def JobKind.isInitOf (port : Nat) : JobKind → Bool
  | .init p _ detached => decide (p = port) && !detached
  | .xfer .. => false
  | .cue .. => false

/-- An active INIT job detached from its port, with the ending mark (R117, R124). -/
def Job.detach (j : Job) : Job :=
  match j.kind with
  | .init p writes _ => { j with kind := .init p writes true, ending := true }
  | .xfer .. => j
  | .cue .. => j

/-- STOP_PORT detaches the port's INIT job: a waiting one leaves the queue, an active one ends early (R117, R124). -/
def ControlBus.detachPort (b : ControlBus) (port : Nat) : ControlBus :=
  { b with
    active := b.active.map (fun j => if j.kind.isInitOf port then j.detach else j)
    waiting := b.waiting.filter (fun j => !(j.kind.isInitOf port)) }

/-- STOP_PORT's handler (R117). -/
def stopPort : Handler := fun h _ body =>
  withPort h body (fun i pt =>
    if pt.state = .off then h.accept []
    else
      (((h.withBus (h.bus.detachPort i)).putPort i { pt with state := .off, remaining := none }).postPort i .stopped none 0).accept [])

/-! ### GET_PORT (R121) -/

def InitEntry.bytes (e : InitEntry) : List Byte := [oneByte e.addr, e.reg, e.value, flagByte e.enabled]

def Port.bytes (pt : Port) : List Byte :=
  [oneByte pt.role.code, oneByte pt.slots] ++ bytesOf 2 pt.settle ++ [oneByte pt.state.code] ++ optBytes 2 pt.remaining ++
    (match pt.failure with
     | none => zeros 4
     | some f => [1, oneByte f.entry, oneByte f.reason.code, oneByte f.byteIndex]) ++
    [oneByte pt.initList.length] ++ pt.initList.flatMap InitEntry.bytes

/-- GET_PORT's handler. -/
def getPort : Handler := fun h _ body => withPort h body (fun _ pt => h.accept pt.bytes)

/-! ### PORT_SETTLED (R115) -/

/-- A SETTLING port whose settle remaining is 0 takes its own share of the boundary that begins frame N; the FRAME_BOUNDARY itself
follows, and finds the port RUNNING. -/
def Hub.portSettled (h : Hub) (i : Nat) : Hub :=
  match h.port i with
  | none => h
  | some pt => if pt.state = .settling ∧ pt.remaining = some 0 ∧ h.clock.switching = false then h.settleStep h.clock.n i else h

/-! ### Meanings -/

/-- CONFIGURE_PORT (R111). -/
def execConfigurePort (tag : Tag) (body : List Byte) (s : State) : Host.Outcome State Fault Refusal :=
  s.onHub (fun h => h.command 0x40 configurePort tag body)

/-- SET_INIT_LIST (R112). -/
def execSetInitList (tag : Tag) (body : List Byte) (s : State) : Host.Outcome State Fault Refusal :=
  s.onHub (fun h => h.command 0x41 setInitList tag body)

/-- START_PORT (R113). -/
def execStartPort (tag : Tag) (body : List Byte) (s : State) : Host.Outcome State Fault Refusal :=
  s.onHub (fun h => h.command 0x42 startPort tag body)

/-- STOP_PORT (R117). -/
def execStopPort (tag : Tag) (body : List Byte) (s : State) : Host.Outcome State Fault Refusal :=
  s.onHub (fun h => h.command 0x43 stopPort tag body)

/-- GET_PORT (R121). -/
def execGetPort (tag : Tag) (body : List Byte) (s : State) : Host.Outcome State Fault Refusal :=
  s.onHub (fun h => h.command 0x44 getPort tag body)

/-- PORT_SETTLED (R115). -/
def execPortSettled (port : Nat) (s : State) : Host.Outcome State Fault Refusal :=
  s.onLive (fun h => h.portSettled port)

end Sys2Proof.Machine
end

