-- ==== Sys2Proof/Machine/Surface.lean ====
section
/-! DEFINITION. Chapter 9: packets and the judging of answers (R135, R136), node records and write queues (R137, R138, R151, R152),
the poll round and its visits (R139, R140), and the commands to nodes. How exchanges end is in Exchanges.lean. -/

namespace Sys2Proof.Machine

/-! ### Packets (R135) -/

/-- One bit of the CRC-16 with polynomial x^16 + x^12 + x^5 + 1, most significant bit first. -/
def crcBit (crc : BitVec 16) : BitVec 16 := if crc.msb then (crc <<< 1) ^^^ 0x1021 else crc <<< 1

def crcByte (crc : BitVec 16) (b : Byte) : BitVec 16 := forEach 8 0 (fun c _ => crcBit c) (crc ^^^ (b ++ (0 : BitVec 8)))

/-- The CRC over bytes, its register preset to all ones, not inverted. -/
def crcOf (bytes : List Byte) : BitVec 16 := bytes.foldl crcByte 0xFFFF

/-- The type byte: the type in the low four bits, its ones complement in the high four. -/
def typeByte (t : Nat) : Byte := oneByte (t + 16 * (15 - t))

/-- A character on the line (R134): a start bit, low; eight data bits, least significant first; a stop bit, high. -/
def charBits (b : Byte) : List Bool := false :: ((numbers 0 8).map (fun i => b.getLsbD i) ++ [true])

/-- The bits of a packet, its characters back to back. -/
def packetBits (bytes : List Byte) : List Bool := bytes.flatMap charBits

/-- SBE `bits` bit times after the last packet began (R134): high from the start bit of its first character to the end of the stop bit of
its last, low before any packet was sent and while RESET_N is low. -/
def Surface.sbe (s : Surface) (bits : Nat) : Bool := decide (bits < (packetBits s.lastSent).length)

/-- The level the part puts on the line then; a line it does not drive idles high. -/
def Surface.line (s : Surface) (bits : Nat) : Bool := (packetBits s.lastSent)[bits]?.getD true

def packetPoll : Nat := 1
def packetWrite : Nat := 2
def packetReset : Nat := 3
def packetAck : Nat := 4
def packetNak : Nat := 5
def packetHalted : Nat := 6
def packetReport : Nat := 8

/-- A whole packet: type, address, length, payload, CRC low byte first. -/
def packetOf (type addr : Nat) (payload : List Byte) : List Byte :=
  let covered := [oneByte addr, oneByte payload.length] ++ payload
  [typeByte type] ++ covered ++ bytesOf 2 (crcOf covered).toNat

/-! ### Judging an answer (R136) -/

/-- The outcome of an exchange. -/
inductive LineOutcome where
  | timeout
  | framingError
  | nibbleError
  | babble
  | crcError
  | protocolError
  | valid (type : Nat) (payload : List Byte)
deriving DecidableEq, Repr, Inhabited

/-- The high four bits of a type byte are the ones complement of the low four. -/
def nibbleFits (b : Byte) : Bool := decide (b = typeByte (b.toNat % 16))

/-- What reading the characters in order comes to: a condition met by one of them, or the bytes of the whole declared packet with the
characters left over. -/
inductive Scanned where
  | met (o : LineOutcome)
  | complete (bytes : List Byte) (rest : List LineChar)
deriving DecidableEq, Repr, Inhabited

/-- A character that is not received as it should be: its stop bit low, or after a gap (R136). -/
def LineChar.broken (c : LineChar) (first : Bool) : Bool := !c.stopHigh || (c.gapBefore && !first)

/-- Judge the characters as they arrive; `got` are the bytes before. An answer that ends before its declared end has a gap there. -/
def scanChars : List LineChar → List Byte → Scanned
  | [], _ => .met .framingError
  | c :: rest, got =>
    if LineChar.broken c got.isEmpty then .met .framingError
    else if got.length = 0 ∧ nibbleFits c.byte = false then .met .nibbleError
    else if got.length = 2 ∧ 64 < c.byte.toNat then .met .babble
    else if 2 < got.length ∧ got.length + 1 = 5 + byteAt got 2 then .complete (got ++ [c.byte]) rest
    else scanChars rest (got ++ [c.byte])

/-- A start bit came within 20 µs after the last character of the declared packet. -/
def startsAgain (a : LineAnswer) (rest : List LineChar) : Bool :=
  a.startAfter || (match rest with
    | [] => false
    | c :: _ => !c.gapBefore)

/-- The length and payload have the form R135 gives for the type. Of a WRITE, which a node can send only in answer to a probe, only the
length is checked, not the settings' control, kind and value; a type that R135 does not define has any form (DESIGN CHOICE, logs 51
and 31). -/
def formFits (type : Nat) (payload : List Byte) : Bool :=
  if type = packetWrite then decide (4 ≤ payload.length) && decide (payload.length % 4 = 0)
  else if type = packetReport then
    decide (1 ≤ payload.length) && decide (payload.length ≤ 61) && decide (payload.length % 4 = 1) && decide (byteAt payload 0 ≤ 1)
  else if type = packetPoll ∨ type = packetReset ∨ type = packetAck ∨ type = packetNak ∨ type = packetHalted then
    decide (payload.length = 0)
  else true

/-- A complete packet's content: CRC, then address, type and form. -/
def judgePacket (node : Nat) (answers : Nat → Bool) (bytes : List Byte) : LineOutcome :=
  let covered := (bytes.drop 1).take (2 + byteAt bytes 2)
  let payload := covered.drop 2
  let type := byteAt bytes 0 % 16
  if (crcOf covered).toNat ≠ fieldAt bytes (3 + byteAt bytes 2) 2 then .crcError
  else if byteAt bytes 1 = node ∧ answers type = true ∧ formFits type payload = true then .valid type payload
  else .protocolError

/-- The outcome of the answer to a packet sent to `node` (R136). `answers` tells the types that may answer it. -/
def judge (node : Nat) (answers : Nat → Bool) (a : LineAnswer) : LineOutcome :=
  match a.chars with
  | [] => .timeout
  | c :: cs =>
    if a.neverIdle then .babble
    else
      match scanChars (c :: cs) [] with
      | .met o => o
      | .complete bytes rest => if startsAgain a rest then .babble else judgePacket node answers bytes

/-- The types that may answer a packet of an exchange (R140's table). A probe takes any type. -/
def ExchangeKind.answers (k : ExchangeKind) (type : Nat) : Bool :=
  match k with
  | .reset => decide (type = packetAck) || decide (type = packetNak) || decide (type = packetHalted)
  | .resetVisit => decide (type = packetAck) || decide (type = packetNak) || decide (type = packetHalted)
  | .write => decide (type = packetAck) || decide (type = packetNak) || decide (type = packetHalted)
  | .poll => decide (type = packetReport) || decide (type = packetNak) || decide (type = packetHalted)
  | .probe => true

/-! ### Write queues (R151, R152) -/

/-- What became of a setting handed to a node's write queue. -/
inductive Queued where
  | joined
  | notOnline
  | full
deriving DecidableEq, Repr, Inhabited

def Setting.hasKey (s : Setting) (control : Nat) (kind : SettingKind) : Bool :=
  decide (s.control = control) && decide (s.kind = kind)

/-- Replace the value of the setting with a key in place; in flight, it is also marked replaced (R151). -/
def Setting.replace (s : Setting) (value : Nat) : Setting := { s with value := value, replaced := s.replaced || s.inFlight }

/-- A setting reaches an ONLINE node's queue; `none` is no room (R151). -/
def queueSetting (q : List Setting) (control : Nat) (kind : SettingKind) (value : Nat) : Option (List Setting) :=
  if q.any (fun s => s.hasKey control kind) then
    some (q.map (fun s => if s.hasKey control kind then s.replace value else s))
  else if q.length < Config.queueCapacity then some (q ++ [⟨control, kind, value, false, false⟩])
  else none

/-- A setting handed to a node (R151). -/
def Hub.handSetting (h : Hub) (a control : Nat) (kind : SettingKind) (value : Nat) : Hub × Queued :=
  match h.node a with
  | none => (h, .notOnline)
  | some n =>
    if n.state ≠ .online then (h, .notOnline)
    else
      match queueSetting n.queue control kind value with
      | none => (h, .full)
      | some q => (h.putNode a { n with queue := q }, .joined)

/-- A MOTOR setting whose control is touched is held (R152). -/
def Node.holds (n : Node) (s : Setting) : Bool := decide (s.kind = .motor) && n.touched.contains s.control

/-- The settings a WRITE carries: the first 16 sendable ones in queue order (R140, R152). -/
def Node.toSend (n : Node) : List Setting := (n.queue.filter (fun s => !(n.holds s))).take 16

/-- Mark in flight the first `k` sendable settings of a queue (R142). -/
def markInFlight (held : Setting → Bool) : List Setting → Nat → List Setting
  | [], _ => []
  | q, 0 => q
  | s :: rest, k + 1 =>
    if held s then s :: markInFlight held rest (k + 1)
    else { s with inFlight := true, replaced := false } :: markInFlight held rest k

/-- A setting in its four-byte form (R135). -/
def Setting.bytes (s : Setting) : List Byte := [oneByte s.control, oneByte s.kind.code] ++ bytesOf 2 s.value

/-! ### Leaving ONLINE, and the reset command (R138, R150) -/

/-- The record of a node that leaves ONLINE (R138). -/
def Node.cleared (n : Node) (st : NodeState) : Node :=
  { n with state := st, resetPending := false, toggle := false, queue := [], touched := [], pressed := [] }

/-- A reset command held is answered, and the record holds none (R150). -/
def Hub.answerReset (h : Hub) (a : Nat) (st : Status) : Hub :=
  match h.node a with
  | none => h
  | some n =>
    match n.resetCommand with
    | none => h
    | some c => (h.putNode a { n with resetCommand := none }).answer c.entry ⟨0x51, c.tag, st, []⟩

/-- The last posted value of a display on a node that is not ONLINE is absent (R169). -/
def Meter.nodeLeft (m : Meter) (a : Nat) : Meter :=
  if m.display.any (fun d => decide (d.node = a)) then { m with posted := none } else m

/-- A node leaves its state for one that is not ONLINE; a reset command held is answered NO_RESPONSE (R138, R149, R150), and the next
display update to it is handed whatever its count (R169). -/
def Hub.leaveOnline (h : Hub) (a : Nat) (st : NodeState) : Hub :=
  let h1 := (h.withMeters (h.meters.map (fun m => m.nodeLeft a))).answerReset a .noResponse
  match h1.node a with
  | none => h1
  | some n => h1.putNode a (n.cleared st)

/-! ### Rounds and visits (R139, R140) -/

/-- A round that reaches the node's address visits it (R139's table). -/
def Node.visited (n : Node) : Bool :=
  match n.state with
  | .online => true
  | .offline => decide (n.rounds = 16)
  | .halted => n.resetCommand.isSome
  | .disabled => false

/-- The next address the round in progress visits, if any is left. A round passes an address with the visit there, or with a later one: in a round
without a visit no address has been passed until it ends, and a node enabled within its 100 µs is visited in it (DESIGN CHOICE, log 35). -/
def Hub.nextVisit (h : Hub) : Option Nat :=
  (numbers h.surface.cursor (17 - h.surface.cursor)).find? (fun a => ((h.node a).map Node.visited).getD false)

/-- A round begins: the OFFLINE round counter of every OFFLINE node goes up by one (R139). -/
def Hub.roundStart (h : Hub) : Hub :=
  if h.surface.exchange.isNone && h.nextVisit.isNone then
    h.withSurface { h.surface with
      nodes := h.surface.nodes.map (fun n => if n.state = .offline then { n with rounds := min 16 (n.rounds + 1) } else n)
      cursor := 1 }
  else h

/-- The part sends a packet to a node, and an exchange begins. -/
def Hub.beginExchange (h : Hub) (a : Nat) (kind : ExchangeKind) (forCommand : Bool) (packet : List Byte) : Hub :=
  h.withSurface { h.surface with
    exchange := some { node := a, kind := kind, discarded := false, forCommand := forCommand, stamp := none }
    lastSent := packet }

/-- Send POLL of a full visit (R140). -/
def Hub.sendPoll (h : Hub) (a : Nat) : Hub := h.beginExchange a .poll false (packetOf packetPoll a [])

/-- Send WRITE with the settings now sendable, each marked in flight (R140, R142). -/
def Hub.sendWrite (h : Hub) (a : Nat) (n : Node) : Hub :=
  (h.putNode a { n with queue := markInFlight n.holds n.queue 16 }).beginExchange a .write false
    (packetOf packetWrite a (n.toSend.flatMap Setting.bytes))

/-- Send RESET (R140, R150); it answers the reset command that is present now. -/
def Hub.sendReset (h : Hub) (a : Nat) (n : Node) (kind : ExchangeKind) : Hub :=
  h.beginExchange a kind n.resetCommand.isSome (packetOf packetReset a [])

/-- The first exchange of a visit (R140, R147, R150). -/
def Hub.visitNode (h : Hub) (a : Nat) (n : Node) : Hub :=
  match n.state with
  | .online =>
    if n.resetPending then h.sendReset a n .reset
    else if n.toSend.isEmpty then h.sendPoll a
    else h.sendWrite a n
  | .offline => h.beginExchange a .probe false (packetOf packetPoll a [])
  | .halted => h.sendReset a n .resetVisit
  | .disabled => h

/-- The part begins the round's next node visit (R139, R140). -/
def Hub.visitStart (h : Hub) : Hub :=
  if h.surface.exchange.isSome then h
  else
    match h.nextVisit with
    | none => h
    | some a =>
      match h.node a with
      | none => h
      | some n => (h.withSurface { h.surface with cursor := a + 1 }).visitNode a n

/-- The last character of a report is received: N is its stamp (R155). -/
def Hub.reportReceived (h : Hub) : Hub :=
  match h.surface.exchange with
  | none => h
  | some x =>
    if x.kind = .poll then h.withSurface { h.surface with exchange := some { x with stamp := some h.clock.n } } else h

/-! ### Handlers -/

/-- SET_NODE's effect on a record (R149's table, the enable flag on). -/
def Node.enabled (n : Node) : Node :=
  match n.state with
  | .disabled => { n with state := .online, allowance := n.reload, toggle := false, resetPending := true }
  | .online => { n with allowance := n.reload }
  | .offline => n
  | .halted => n

/-- The exchange in progress with a node that is disabled: its outcome is to be discarded (R149). -/
def Surface.discardFor (s : Surface) (a : Nat) : Surface :=
  { s with exchange := s.exchange.map (fun x => if x.node = a then { x with discarded := true } else x) }

/-- A node is disabled (R149). The NO_RESPONSE to a reset command it held comes before the reply to SET_NODE (DESIGN CHOICE, log 60). -/
def Hub.disableNode (h : Hub) (a : Nat) (n : Node) : Hub :=
  if n.state = .disabled then h else (h.withSurface (h.surface.discardFor a)).leaveOnline a .disabled

/-- SET_NODE's handler (R149). Its reply joins the queue last (R176; DESIGN CHOICE, log 60). -/
def setNode : Handler := fun h _ body =>
  if body.length ≠ 4 then h.refuse .malformed
  else
    let a := byteAt body 0
    let reload := byteAt body 2
    match h.node a, flagOf (byteAt body 1), flagOf (byteAt body 3) with
    | some n, some en, some fwd =>
      if reload = 0 ∨ 7 < reload then h.refuse .badValue
      else
        let n1 : Node := { n with reload := reload, forward := fwd }
        if en then (h.putNode a n1.enabled).accept [] else ((h.putNode a n1).disableNode a n1).accept []
    | _, _, _ => h.refuse .badValue

/-- RESET_NODE's handler (R150): the reply comes when the RESET exchange that answers it ends. -/
def resetNode : Handler := fun h ctx body =>
  if body.length ≠ 1 then h.refuse .malformed
  else
    match h.node (byteAt body 0) with
    | none => h.refuse .badValue
    | some n =>
      if (n.state = .online ∨ n.state = .halted) ∧ n.resetCommand = none then
        (h.putNode (byteAt body 0) { n with resetCommand := some ⟨ctx.tag, ctx.entry⟩, resetPending := true }, .deferred)
      else h.refuse .busy

/-- A setting's kind and value in range (R135, R151). -/
def settingOf (kind value : Nat) : Option SettingKind :=
  (SettingKind.ofCode kind).filter (fun k => decide (value ≤ k.limit))

/-- SURFACE_WRITE's handler (R151): shape, values, node state, capacity, in this order. -/
def surfaceWrite : Handler := fun h _ body =>
  if body.length ≠ 5 then h.refuse .malformed
  else
    match h.node (byteAt body 0), settingOf (byteAt body 2) (fieldAt body 3 2) with
    | some _, some kind =>
      if 63 < byteAt body 1 then h.refuse .badValue
      else
        match h.handSetting (byteAt body 0) (byteAt body 1) kind (fieldAt body 3 2) with
        | (h1, .joined) => h1.accept []
        | (_, .notOnline) => h.refuse .busy
        | (_, .full) => h.refuse .full
    | _, _ => h.refuse .badValue

/-- GET_NODE's fields (R153). -/
def Node.bytes (n : Node) : List Byte :=
  [oneByte n.state.code, oneByte n.allowance, oneByte n.reload, flagByte n.forward, flagByte n.toggle, flagByte n.resetPending,
    flagByte n.resetCommand.isSome, oneByte n.rounds, oneByte n.queue.length] ++
    n.queue.flatMap (fun s => s.bytes ++ [settingMarks (n.holds s) s.inFlight s.replaced]) ++
    [oneByte n.touched.length] ++ n.touched.map oneByte ++ [oneByte n.pressed.length] ++ n.pressed.map oneByte

/-- GET_NODE's handler (R153). -/
def getNode : Handler := fun h _ body =>
  if body.length ≠ 1 then h.refuse .malformed
  else
    match h.node (byteAt body 0) with
    | none => h.refuse .badValue
    | some n => h.accept n.bytes

/-! ### Meanings -/

/-- ROUND_START (R139). -/
def execRoundStart (s : State) : Host.Outcome State Fault Refusal := s.onLive Hub.roundStart

/-- VISIT_START (R140). -/
def execVisitStart (s : State) : Host.Outcome State Fault Refusal := s.onLive Hub.visitStart

/-- REPORT_RECEIVED (R155). -/
def execReportReceived (s : State) : Host.Outcome State Fault Refusal := s.onLive Hub.reportReceived

/-- SET_NODE (R149). -/
def execSetNode (tag : Tag) (body : List Byte) (s : State) : Host.Outcome State Fault Refusal :=
  s.onHub (fun h => h.command 0x50 setNode tag body)

/-- RESET_NODE (R150). -/
def execResetNode (tag : Tag) (body : List Byte) (s : State) : Host.Outcome State Fault Refusal :=
  s.onHub (fun h => h.command 0x51 resetNode tag body)

/-- SURFACE_WRITE (R151). -/
def execSurfaceWrite (tag : Tag) (body : List Byte) (s : State) : Host.Outcome State Fault Refusal :=
  s.onHub (fun h => h.command 0x52 surfaceWrite tag body)

/-- GET_NODE (R153). -/
def execGetNode (tag : Tag) (body : List Byte) (s : State) : Host.Outcome State Fault Refusal :=
  s.onHub (fun h => h.command 0x53 getNode tag body)

end Sys2Proof.Machine
end

