-- ==== Sys2Proof/Machine/Meters.lean ====
section
/-! DEFINITION. Chapter 11: meter samples, periods, ballistics, clips, displays and the level watch (R164 to R173). -/

namespace Sys2Proof.Machine

/-! ### Samples and clips (R165, R168) -/

/-- The magnitude of a sample: its absolute value, −8,388,608 giving 8,388,607 (R165). -/
def magnitude (v : Sample) : Nat := min 8388607 v.toInt.natAbs

/-- The frames of a meter period (R165's table). -/
def periodFrames (r : Rate) : Nat := 512 * r.multiple

/-- The run count after a magnitude (R168). -/
def Meter.nextRun (m : Meter) (mag : Nat) : Nat := if m.threshold ≤ mag then min m.clipRun (m.run + 1) else 0

/-- The magnitude completes the clip run: the run count reaches K by an increase (R168). -/
def Meter.clips (m : Meter) (mag : Nat) : Bool := decide (m.run < m.clipRun) && decide (m.nextRun mag = m.clipRun)

/-- A meter takes a magnitude: it raises the period peak and feeds the clip run (R165, R168). -/
def Meter.sampled (m : Meter) (mag : Nat) : Meter :=
  { m with peak := max m.peak mag, run := m.nextRun mag, clipped := m.clipped || m.clips mag }

/-- The meter's sample of frame p; a clip posts CLIP with stamp N = p + 1. -/
def Hub.meterSample (p : Nat) (h : Hub) (i : Nat) : Hub :=
  match h.meter i with
  | none => h
  | some m =>
    match m.source with
    | none => h
    | some place =>
      let mag := magnitude (h.exchanged place)
      let h1 := h.putMeter i (m.sampled mag)
      if m.clips mag then h1.post (.clip i p) else h1

/-- Every meter takes its sample of frame p. -/
def Hub.metersSample (h : Hub) (p : Nat) : Hub := forEach Config.nMeters 0 (Hub.meterSample p) h

/-! ### The end of a period (R166, R167) -/

/-- The level index of a peak (R166): 4e + f + 1, where e is the number of the highest set bit and f the two bits below it, bits below
bit 0 reading as 0. -/
def levelIndex (p : Nat) : Nat := if p = 0 then 0 else 4 * p.log2 + (4 * p / 2 ^ p.log2) % 4 + 1

/-- The displayed index (R167). -/
def Meter.displayed (m : Meter) : Nat := m.d16 / 16

/-- The ballistics of one period with level index `level` (R167 steps 2 and 3); `d16` is the displayed level in sixteenths. -/
def Meter.evaluated (m : Meter) (level : Nat) : Meter :=
  let m1 : Meter :=
    if m.d16 ≤ 16 * level then { m with d16 := 16 * level, holdCount := m.hold }
    else if 0 < m.holdCount then { m with holdCount := m.holdCount - 1 }
    else { m with d16 := max (16 * level) (m.d16 - m.decay) }
  { m1 with maxIndex := max m.maxIndex level, peak := 0 }

/-! ### Displays (R169) -/

/-- The segment count a display shows. -/
def segmentCount (displayed segments : Nat) : Nat := displayed * segments / 92

/-- A meter's display update at its period end. A bound node that is not ONLINE leaves the last posted value absent. -/
def Hub.meterDisplay (h : Hub) (i : Nat) (m : Meter) : Hub :=
  match m.display with
  | none => h
  | some d =>
    let count := segmentCount m.displayed d.segments
    if ((h.node d.node).map Node.state) ≠ some .online then h.putMeter i { m with posted := none }
    else if m.posted = some count then h
    else (h.handSetting d.node d.control .meter count).1.putMeter i { m with posted := some count }

/-! ### The level watch (R170) -/

/-- A stream's level watch is met by meter i's index. -/
def Stream.watchMet (st : Stream) (i level : Nat) : Bool :=
  decide (st.desc.direction = .capture) && decide (st.state = .armed) &&
    (match st.desc.watch with
     | none => false
     | some w => decide (w.meter = i) && decide (w.threshold ≤ level))

/-- Hand a trigger to every ARMED capture stream whose watch is met: T is the first frame of the ending period, N the first of the next. -/
def Hub.levelWatch (h : Hub) (i level t now : Nat) : Hub :=
  forEach Config.nStreams 0 (fun h k =>
    match h.stream k with
    | none => h
    | some st => if st.watchMet i level then h.trigger k t now .triggerLevel else h) h

/-- A meter's period ends at the boundary that begins frame p. -/
def Hub.meterPeriodEnd (p frames : Nat) (h : Hub) (i : Nat) : Hub :=
  match h.meter i with
  | none => h
  | some m =>
    if m.source.isNone then h
    else
      let level := levelIndex m.peak
      let m1 := m.evaluated level
      ((h.putMeter i m1).meterDisplay i m1).levelWatch i level (p - frames) p

/-- The end of a meter period, when the boundary that begins frame p ends one (R165). -/
def Hub.metersPeriodEnd (h : Hub) (p : Nat) : Hub :=
  let frames := periodFrames h.clock.rate
  if 0 < p ∧ p % frames = 0 then forEach Config.nMeters 0 (Hub.meterPeriodEnd p frames) h else h

/-- The clip latch of every meter is cleared (R100, R162, R168). -/
def Hub.clearClips (h : Hub) : Hub := h.withMeters (h.meters.map (fun m => { m with clipped := false }))

/-- An accepted rate change abandons the period in progress (R15, R165). -/
def Hub.metersRateChange (h : Hub) : Hub := h.withMeters (h.meters.map (fun m => { m with peak := 0 }))

/-! ### Handlers -/

/-- A source field: presence flag, port, slot (R171). The outer `none` is BAD_VALUE. -/
def sourceOf (present port slot : Nat) : Option (Option PortSlot) :=
  match flagOf present with
  | none => none
  | some false => some none
  | some true => if port < Config.nPorts ∧ slot < Config.nSlots then some (some ⟨port, slot⟩) else none

/-- A meter with a new source and settings (R171): peak and run restart; a changed source also restarts ballistics and clip state. -/
def Meter.set (m : Meter) (source : Option PortSlot) (hold decay threshold clipRun : Nat) : Meter :=
  let m1 : Meter := { m with
    source := source, hold := hold, decay := decay, threshold := threshold, clipRun := clipRun, peak := 0, run := 0 }
  if source = m.source then { m1 with holdCount := min m.holdCount hold }
  else { m1 with d16 := 0, holdCount := 0, maxIndex := 0, clipped := false }

/-- SET_METER's handler (R171). -/
def setMeter : Handler := fun h _ body =>
  if body.length ≠ 10 then h.refuse .malformed
  else
    let decay := byteAt body 5
    let threshold := fieldAt body 6 3
    let clipRun := byteAt body 9
    match h.meter (byteAt body 0), sourceOf (byteAt body 1) (byteAt body 2) (byteAt body 3) with
    | some m, some source =>
      if decay = 0 ∨ threshold = 0 ∨ 8388607 < threshold ∨ clipRun = 0 ∨ 8 < clipRun then h.refuse .badValue
      else (h.putMeter (byteAt body 0) (m.set source (byteAt body 4) decay threshold clipRun)).accept []
    | _, _ => h.refuse .badValue

/-- A display field: presence flag, node, control, segments (R172). The outer `none` is BAD_VALUE. -/
def displayOf (present node control segments : Nat) : Option (Option Display) :=
  match flagOf present with
  | none => none
  | some false => some none
  | some true =>
    if 1 ≤ node ∧ node ≤ 16 ∧ control ≤ 63 ∧ 1 ≤ segments ∧ segments ≤ 32 then some (some ⟨node, control, segments⟩) else none

/-- SET_METER_DISPLAY's handler (R172). -/
def setMeterDisplay : Handler := fun h _ body =>
  if body.length ≠ 5 then h.refuse .malformed
  else
    match h.meter (byteAt body 0), displayOf (byteAt body 1) (byteAt body 2) (byteAt body 3) (byteAt body 4) with
    | some m, some d => (h.putMeter (byteAt body 0) { m with display := d, posted := none }).accept []
    | _, _ => h.refuse .badValue

/-- The meter numbers a command names, from an offset. -/
def meterNumbers (body : List Byte) (off : Nat) : List Nat := (body.drop off).map BitVec.toNat

def Meter.record (m : Meter) (i : Nat) : List Byte :=
  [oneByte i, oneByte m.displayed, oneByte m.maxIndex, flagByte m.clipped]

/-- A count of 1 to 32 meter numbers, each 0 to 31 (R173). -/
def namesFit (names : List Nat) : Bool :=
  decide (1 ≤ names.length) && decide (names.length ≤ 32) && names.all (fun i => decide (i < Config.nMeters))

/-- READ_METERS' handler (R173). -/
def readMeters : Handler := fun h _ body =>
  if countedShape body 1 0 1 = false then h.refuse .malformed
  else
    let names := meterNumbers body 1
    if namesFit names = false then h.refuse .badValue
    else
      h.accept (oneByte names.length :: names.flatMap (fun i => ((h.meter i).map (fun m => m.record i)).getD []))

/-- M and the clip latch cleared (R173). -/
def Meter.clear (m : Meter) : Meter := { m with maxIndex := 0, clipped := false }

/-- CLEAR_METERS' handler (R173). -/
def clearMeters : Handler := fun h _ body =>
  if countedShape body 2 1 1 = false then h.refuse .malformed
  else
    let names := meterNumbers body 2
    match flagOf (byteAt body 0) with
    | none => h.refuse .badValue
    | some true => (h.withMeters (h.meters.map Meter.clear)).accept []
    | some false =>
      if namesFit names = false then h.refuse .badValue
      else (h.withMeters (names.foldl (fun ms i => ms.modify i Meter.clear) h.meters)).accept []

/-! ### Meanings -/

/-- SET_METER (R171). -/
def execSetMeter (tag : Tag) (body : List Byte) (s : State) : Host.Outcome State Fault Refusal :=
  s.onHub (fun h => h.command 0x60 setMeter tag body)

/-- SET_METER_DISPLAY (R172). -/
def execSetMeterDisplay (tag : Tag) (body : List Byte) (s : State) : Host.Outcome State Fault Refusal :=
  s.onHub (fun h => h.command 0x61 setMeterDisplay tag body)

/-- READ_METERS (R173). -/
def execReadMeters (tag : Tag) (body : List Byte) (s : State) : Host.Outcome State Fault Refusal :=
  s.onHub (fun h => h.command 0x62 readMeters tag body)

/-- CLEAR_METERS (R173). -/
def execClearMeters (tag : Tag) (body : List Byte) (s : State) : Host.Outcome State Fault Refusal :=
  s.onHub (fun h => h.command 0x63 clearMeters tag body)

end Sys2Proof.Machine
end

