-- ==== Sys2Proof/Machine/Cues.lean ====
section
/-! DEFINITION. Chapter 6: the cue queue (R90 to R107): entries, actions and their results, repeats, firing at the boundary, at
acceptance and by binding, and the commands. -/

namespace Sys2Proof.Machine

/-! ### Reading an entry (R90, R92) -/

/-- An action's parameters, eight bytes from an offset; `none` is BAD_VALUE (R90's table). -/
def cueActionOf (code : Nat) (body : List Byte) (off : Nat) : Option CueAction :=
  let a := byteAt body off
  let b := byteAt body (off + 1)
  match code with
  | 0 => if a < Config.nStreams then some (.streamTrigger a) else none
  | 1 => if a < Config.nStreams then some (.streamStop a) else none
  | 2 => if a < Config.nStreams then (flagOf b).map (.streamMute a) else none
  | 3 => if a ≤ 127 ∧ 1 ≤ b ∧ b ≤ 4 then some (.converterWrite a ((body.drop (off + 2)).take b)) else none
  | 4 =>
    if 1 ≤ a ∧ a ≤ 16 ∧ b ≤ 63 then
      (settingOf (byteAt body (off + 2)) (fieldAt body (off + 3) 2)).map (fun k => .surfaceWrite a b k (fieldAt body (off + 3) 2))
    else none
  | 5 => if a < Config.nOutputs then (flagOf b).map (.clockOutput a) else none
  | 6 =>
    if a < Config.nTallies then
      (match b with
       | 0 => some (.tallyRun a)
       | 1 => some (.tallyStop a)
       | _ => none)
    else none
  | 7 => some .clearClips
  | _ => none

/-- POST_CUE's entry (R92 step 2): `none` is BAD_VALUE. With an interval of 0 the repeats are held as 0 (R90). -/
def cueOf (body : List Byte) : Option CueEntry :=
  let tag := fieldAt body 0 2
  let interval := fieldAt body 11 4
  match cueActionOf (byteAt body 8) body 17, LatePolicy.ofCode (byteAt body 9), flagOf (byteAt body 10) with
  | some action, some policy, some notify =>
    if tag = 0 then none
    else some { tag := tag, due := fieldAt body 2 6, action := action, policy := policy, notify := notify, interval := interval,
                repeats := if interval = 0 then 0 else fieldAt body 15 2 }
  | _, _, _ => none

def CueAction.code : CueAction → Nat
  | .streamTrigger _ => 0
  | .streamStop _ => 1
  | .streamMute .. => 2
  | .converterWrite .. => 3
  | .surfaceWrite .. => 4
  | .clockOutput .. => 5
  | .tallyRun _ => 6
  | .tallyStop _ => 6
  | .clearClips => 7

/-- The parameter bytes an action uses. -/
def CueAction.used : CueAction → List Byte
  | .streamTrigger i => [oneByte i]
  | .streamStop i => [oneByte i]
  | .streamMute i on => [oneByte i, flagByte on]
  | .converterWrite a data => [oneByte a, oneByte data.length] ++ data
  | .surfaceWrite n c k v => [oneByte n, oneByte c, oneByte k.code] ++ bytesOf 2 v
  | .clockOutput o en => [oneByte o, flagByte en]
  | .tallyRun u => [oneByte u, 0]
  | .tallyStop u => [oneByte u, 1]
  | .clearClips => []

/-- A cue entry in its 25-byte form. -/
def CueEntry.bytes (e : CueEntry) : List Byte :=
  bytesOf 2 e.tag ++ bytesOf 6 e.due ++ [oneByte e.action.code, oneByte e.policy.code, flagByte e.notify] ++
    bytesOf 4 e.interval ++ bytesOf 2 e.repeats ++ (e.action.used ++ zeros 8).take 8

/-! ### The list (R91) -/

/-- An entry enters the list behind every entry with a due position at or below its own. -/
def insertCue : List CueEntry → CueEntry → List CueEntry
  | [], e => [e]
  | c :: rest, e => if e.due < c.due then e :: c :: rest else c :: insertCue rest e

/-- The list without the entry that holds a tag. -/
def removeCue (l : List CueEntry) (tag : Nat) : List CueEntry := l.filter (fun c => decide (c.tag ≠ tag))

def findCue (l : List CueEntry) (tag : Nat) : Option CueEntry := l.find? (fun c => decide (c.tag = tag))

/-! ### Repeats (R102) -/

/-- How many intervals the due position moves: the smallest k of 1 or more that takes it above the fire position. -/
def CueEntry.intervals (e : CueEntry) (fire : Nat) : Nat := (fire - e.due) / e.interval + 1

/-- The entry repeats at all. -/
def CueEntry.repeating (e : CueEntry) : Bool := decide (e.interval ≠ 0) && decide (e.repeats ≠ 0)

/-- One or more repetitions are skipped. -/
def CueEntry.skips (e : CueEntry) (fire : Nat) : Bool := e.repeating && decide (1 < e.intervals fire)

/-- The entry as it returns to the list after a firing, if it does. -/
def CueEntry.next (e : CueEntry) (fire : Nat) : Option CueEntry :=
  let k := e.intervals fire
  let due := e.due + k * e.interval
  if e.repeating = false ∨ Config.positions ≤ due then none
  else if e.repeats = 65535 then some { e with due := due }
  else if k ≤ e.repeats then some { e with due := due, repeats := e.repeats - k }
  else none

/-! ### Actions and their results (R96 to R100) -/

/-- What handing an action to its block gave: a result, or a job on the control bus that will decide it (R98). -/
inductive Acted where
  | result (r : CueResult)
  | queued
deriving DecidableEq, Repr, Inhabited

/-- STREAM_TRIGGER of a cue: T is `pos` (R97). -/
def Hub.cueTrigger (h : Hub) (i pos now : Nat) : Hub × Acted :=
  match h.stream i with
  | none => (h, .result .noSuch)
  | some st => if st.state = .armed then (h.trigger i pos now .triggerCue, .result .ok) else (h, .result .notApplicable)

/-- STREAM_STOP of a cue: e is `pos` (R97). -/
def Hub.cueStop (h : Hub) (i pos now : Nat) : Hub × Acted :=
  match h.stream i with
  | none => (h, .result .noSuch)
  | some _ =>
    match h.stopStream i pos now false with
    | (h1, true) => (h1, .result .ok)
    | (h1, false) => (h1, .result .notApplicable)

/-- STREAM_MUTE of a cue (R65, R97). -/
def Hub.cueMute (h : Hub) (i : Nat) (on : Bool) : Hub × Acted :=
  match h.stream i with
  | none => (h, .result .noSuch)
  | some st => if st.mutable then (h.putStream i { st with muted := on }, .result .ok) else (h, .result .notApplicable)

/-- CONVERTER_WRITE hands over a CUE job that carries the firing's fields (R98). -/
def Hub.cueConverter (h : Hub) (e : CueEntry) (fire : Nat) (late : Bool) (addr : Nat) (data : List Byte) : Hub × Acted :=
  if h.bus.room then
    (h.withBus (h.bus.add (.cue e.tag e.due fire e.notify late (e.skips fire) addr data)), .queued)
  else (h, .result .queueFull)

/-- SURFACE_WRITE of a cue (R99). -/
def Hub.cueSurface (h : Hub) (a control : Nat) (kind : SettingKind) (value : Nat) : Hub × Acted :=
  match h.handSetting a control kind value with
  | (h1, .joined) => (h1, .result .ok)
  | (_, .notOnline) => (h, .result .nodeNotOnline)
  | (_, .full) => (h, .result .queueFull)

/-- CLOCK_OUTPUT sets or clears the enable flag (R23, R100). -/
def Hub.cueOutput (h : Hub) (o : Nat) (enable : Bool) : Hub × Acted :=
  match h.out o with
  | none => (h, .result .ok)
  | some out => (h.putOut o (out.setEnable enable), .result .ok)

/-- TALLY with RUN, evaluated against `now` (R28, R100). -/
def Hub.cueTallyRun (h : Hub) (u now : Nat) : Hub × Acted :=
  match (h.tally u).bind (fun t => t.run now) with
  | none => (h, .result .notApplicable)
  | some t => (h.putTally u t, .result .ok)

/-- TALLY with STOP (R30, R100). -/
def Hub.cueTallyStop (h : Hub) (u : Nat) : Hub × Acted :=
  match h.tally u with
  | none => (h, .result .ok)
  | some t => (h.putTally u t.halt, .result .ok)

/-- An entry's action reaches its owning block with position `pos` and fire position `fire` (R96). -/
def Hub.actCue (h : Hub) (e : CueEntry) (pos fire : Nat) (late : Bool) : Hub × Acted :=
  match e.action with
  | .streamTrigger i => h.cueTrigger i pos fire
  | .streamStop i => h.cueStop i pos fire
  | .streamMute i on => h.cueMute i on
  | .converterWrite a data => h.cueConverter e fire late a data
  | .surfaceWrite n c k v => h.cueSurface n c k v
  | .clockOutput o en => h.cueOutput o en
  | .tallyRun u => h.cueTallyRun u fire
  | .tallyStop u => h.cueTallyStop u
  | .clearClips => (h.clearClips, .result .ok)

/-! ### Firing (R94, R95, R101, R105) -/

/-- An entry fires: its action acts, CUE_FIRED is posted when called for, and a repeat puts it back. The entry is not in the list. The byte
index of a result other than NO_ACK_DATA is 0 (DESIGN CHOICE, log 52). -/
def Hub.fireCue (h : Hub) (e : CueEntry) (pos fire : Nat) (late : Bool) : Hub :=
  let h1 := match h.actCue e pos fire late with
    | (h1, .result r) => h1.postFired e.tag e.due fire e.notify r 0 late (e.skips fire)
    | (h1, .queued) => h1
  match e.next fire with
  | none => h1
  | some e1 => h1.withCues (insertCue h1.cues e1)

/-- An entry leaves the list and fires. -/
def Hub.fireHeld (h : Hub) (e : CueEntry) (pos fire : Nat) : Hub :=
  (h.withCues (removeCue h.cues e.tag)).fireCue e pos fire false

/-- The boundary that begins frame p fires every entry due at p, in list order (R95). -/
def Hub.fireDue (h : Hub) (p : Nat) : Hub :=
  (h.cues.filter (fun e => decide (e.due = p))).foldl (fun h e => h.fireHeld e p p) h

/-- The binding action CUE_FIRE: the entry with the tag fires with every position at now (R105). -/
def Hub.fireTag (h : Hub) (tag : Nat) : Hub :=
  match findCue h.cues tag with
  | none => h
  | some e => h.fireHeld e h.clock.n h.clock.n

/-- A flush (R106). -/
def Hub.flushCues (h : Hub) (cause : FlushCause) : Hub :=
  (h.withCues []).post (.cueFlushed h.cues.length cause)

/-! ### Handlers -/

/-- POST_CUE's result fields: FIRED, and the due position of the entry held. -/
def postCueFields (fired : Bool) (held : Option CueEntry) : List Byte :=
  flagByte fired :: optBytes 6 (held.map CueEntry.due)

/-- A POST_CUE whose checks of shape, values and tag have passed (R92 steps 4 and 5, R93, R94). -/
def Hub.postCue (h : Hub) (e : CueEntry) : Hub × Handled :=
  let now := h.clock.n
  let full := decide (Config.cueCapacity ≤ h.cues.length)
  if now ≤ e.due then
    if full then h.refuse .full else (h.withCues (insertCue h.cues e)).accept (postCueFields false (some e))
  else if e.policy = .drop then h.refuse .late
  else if (e.next now).isSome && full then h.refuse .full
  else (h.fireCue e e.due now true).accept (postCueFields true (e.next now))

/-- POST_CUE's handler (R92): shape, values, tag, lateness, capacity, in this order. -/
def postCue : Handler := fun h _ body =>
  if body.length ≠ 25 then h.refuse .malformed
  else
    match cueOf body with
    | none => h.refuse .badValue
    | some e => if (findCue h.cues e.tag).isSome then h.refuse .conflict else h.postCue e

/-- CANCEL_CUE's handler (R103). -/
def cancelCue : Handler := fun h _ body =>
  if body.length ≠ 2 then h.refuse .malformed
  else
    let tag := fieldAt body 0 2
    if tag = 0 then h.refuse .badValue
    else if (findCue h.cues tag).isSome then (h.withCues (removeCue h.cues tag)).accept []
    else h.refuse .noSuch

/-- LIST_CUES' handler (R104). -/
def listCues : Handler := fun h _ body =>
  if body.length ≠ 0 then h.refuse .malformed
  else h.accept (bytesOf 6 h.clock.n ++ [oneByte h.cues.length] ++ h.cues.flatMap CueEntry.bytes)

/-- FLUSH_CUES' handler (R106). -/
def flushCues : Handler := fun h _ body =>
  if body.length ≠ 0 then h.refuse .malformed
  else (h.flushCues .command).accept [oneByte h.cues.length]

/-! ### Meanings -/

/-- POST_CUE (R92). -/
def execPostCue (tag : Tag) (body : List Byte) (s : State) : Host.Outcome State Fault Refusal :=
  s.onHub (fun h => h.command 0x30 postCue tag body)

/-- CANCEL_CUE (R103). -/
def execCancelCue (tag : Tag) (body : List Byte) (s : State) : Host.Outcome State Fault Refusal :=
  s.onHub (fun h => h.command 0x31 cancelCue tag body)

/-- LIST_CUES (R104). -/
def execListCues (tag : Tag) (body : List Byte) (s : State) : Host.Outcome State Fault Refusal :=
  s.onHub (fun h => h.command 0x32 listCues tag body)

/-- FLUSH_CUES (R106). -/
def execFlushCues (tag : Tag) (body : List Byte) (s : State) : Host.Outcome State Fault Refusal :=
  s.onHub (fun h => h.command 0x33 flushCues tag body)

end Sys2Proof.Machine
end

