-- ==== Sys2Proof/Machine/Events.lean ====
section
/-! DEFINITION. Chapter 10: reading a report's events, the touch and button tables, forwarding, and the binding table
(R155 to R163). -/

namespace Sys2Proof.Machine

/-! ### Reading events (R156) -/

/-- A kept event as handled. -/
structure SurfaceEvent where
  control : Nat
  kind : EventKind
  value : Int
deriving DecidableEq, Repr, Inhabited

/-- The handled value of an event (R156's table). -/
def handledValue (kind : EventKind) (value : Nat) : Int :=
  match kind with
  | .fader => (min value 1023 : Nat)
  | .touch => if value = 0 then 0 else 1
  | .button => if value = 0 then 0 else 1
  | .encoder => max (-127) (BitVec.ofNat 8 value).toInt

/-- The event at an offset of a report's payload; `none` is dropped (R156). -/
def eventAt (payload : List Byte) (off : Nat) : Option SurfaceEvent :=
  if 63 < byteAt payload off then none
  else
    (EventKind.ofCode (byteAt payload (off + 1))).map (fun k =>
      ⟨byteAt payload off, k, handledValue k (fieldAt payload (off + 2) 2)⟩)

/-- The kept events of a report's payload, in the order it carries them: after the toggle byte, four bytes each. -/
def eventsOf (payload : List Byte) : List SurfaceEvent :=
  (numbers 0 ((payload.length - 1) / 4)).filterMap (fun k => eventAt payload (1 + 4 * k))

/-! ### Bindings (R160 to R162) -/

def Edge.matches (e : Edge) (value : Int) : Bool :=
  match e with
  | .press => decide (value = 1)
  | .release => decide (value = 0)

/-- A qualifier's control is recorded as pressed (R161). -/
def Hub.pressed (h : Hub) (c : ControlRef) : Bool :=
  ((h.node c.node).map (fun n => n.pressed.contains c.control)).getD false

/-- A binding fires on a BUTTON event (R161). -/
def Hub.bindingFires (h : Hub) (b : Binding) (node : Nat) (ev : SurfaceEvent) : Bool :=
  decide (b.key = ⟨node, ev.control⟩) && b.edge.matches ev.value &&
    (match b.qualifier with
     | none => true
     | some q => h.pressed q)

/-- STREAM_MUTE_TOGGLE (R65, R162). -/
def Hub.toggleMute (h : Hub) (i : Nat) : Hub :=
  match h.stream i with
  | none => h
  | some st => if st.mutable then h.putStream i { st with muted := !st.muted } else h

/-- A fired binding's action reaches its block; `stamp` is the event's stamp, and N is now (R162). -/
def Hub.actBinding (h : Hub) (a : BindingAction) (stamp : Nat) : Hub :=
  match a with
  | .streamTrigger i => h.trigger i stamp h.clock.n .triggerBinding
  | .streamStop i => (h.stopStream i h.clock.n h.clock.n false).1
  | .streamMuteToggle i => h.toggleMute i
  | .clearClips => h.clearClips
  | .cueFire tag => h.fireTag tag

/-- One entry of the table is examined for a BUTTON event: it acts before the next one is, and BOUND records that it fired. -/
def fireBinding (node stamp : Nat) (ev : SurfaceEvent) (r : Hub × Bool) (b : Option Binding) : Hub × Bool :=
  match b with
  | none => r
  | some b => if r.1.bindingFires b node ev then (r.1.actBinding b.action stamp, true) else r

/-- The bindings of an event fire in ascending index order; only a BUTTON event fires any (R161). -/
def Hub.fireBindings (h : Hub) (node stamp : Nat) (ev : SurfaceEvent) : Hub × Bool :=
  if ev.kind = .button then h.surface.bindings.foldl (fireBinding node stamp ev) (h, false) else (h, false)

/-! ### Handling a report (R157 to R159) -/

/-- The table update of an event (R158). -/
def Node.recorded (n : Node) (ev : SurfaceEvent) : Node :=
  match ev.kind with
  | .touch => { n with touched := memberSet n.touched ev.control (decide (ev.value = 1)) }
  | .button => { n with pressed := memberSet n.pressed ev.control (decide (ev.value = 1)) }
  | .fader => n
  | .encoder => n

def Hub.recordEvent (h : Hub) (a : Nat) (ev : SurfaceEvent) : Hub :=
  match h.node a with
  | none => h
  | some n => h.putNode a (n.recorded ev)

/-- An event of a node whose forward flag is on posts SURFACE_EVENT (R159). -/
def Hub.forwardEvent (h : Hub) (a stamp : Nat) (ev : SurfaceEvent) (bound : Bool) : Hub :=
  match h.node a with
  | none => h
  | some n => if n.forward then h.post (.surfaceEvent a ev.control ev.kind ev.value stamp bound) else h

/-- One event is handled whole: table update, bindings, forwarding (R157). -/
def Hub.handleEvent (a stamp : Nat) (h : Hub) (ev : SurfaceEvent) : Hub :=
  match (h.recordEvent a ev).fireBindings a stamp ev with
  | (h1, bound) => h1.forwardEvent a stamp ev bound

/-- The events of an accepted report, one after another (R157). -/
def Hub.handleReport (h : Hub) (a stamp : Nat) (payload : List Byte) : Hub :=
  (eventsOf payload).foldl (Hub.handleEvent a stamp) h

/-! ### Handlers (R163) -/

/-- A control of a node in range. -/
def controlOf (node control : Nat) : Option ControlRef :=
  if 1 ≤ node ∧ node ≤ 16 ∧ control ≤ 63 then some ⟨node, control⟩ else none

/-- A qualifier field: presence flag, node, control. The outer `none` is BAD_VALUE. -/
def qualifierOf (present node control : Nat) : Option (Option ControlRef) :=
  match flagOf present with
  | none => none
  | some false => some none
  | some true => (controlOf node control).map some

/-- A binding action's code and parameter: a stream in the low byte, or a tag. `none` is BAD_VALUE. -/
def bindingActionOf (code param : Nat) : Option BindingAction :=
  let stream := param % 256
  match code with
  | 0 => if stream < Config.nStreams then some (.streamTrigger stream) else none
  | 1 => if stream < Config.nStreams then some (.streamStop stream) else none
  | 2 => if stream < Config.nStreams then some (.streamMuteToggle stream) else none
  | 3 => some .clearClips
  | 4 => if param = 0 then none else some (.cueFire param)
  | _ => none

/-- SET_BINDING's entry: `none` is BAD_VALUE. -/
def bindingOf (body : List Byte) : Option Binding :=
  match controlOf (byteAt body 1) (byteAt body 2), Edge.ofCode (byteAt body 3),
      qualifierOf (byteAt body 4) (byteAt body 5) (byteAt body 6), bindingActionOf (byteAt body 7) (fieldAt body 8 2) with
  | some key, some edge, some q, some a => some ⟨key, edge, q, a⟩
  | _, _, _, _ => none

/-- SET_BINDING's handler. -/
def setBinding : Handler := fun h _ body =>
  if body.length ≠ 10 then h.refuse .malformed
  else
    match bindingOf body with
    | none => h.refuse .badValue
    | some b =>
      if byteAt body 0 < Config.nBindings then
        (h.withSurface { h.surface with bindings := h.surface.bindings.set (byteAt body 0) (some b) }).accept []
      else h.refuse .badValue

/-- CLEAR_BINDING's handler. -/
def clearBinding : Handler := fun h _ body =>
  if body.length ≠ 1 then h.refuse .malformed
  else if byteAt body 0 < Config.nBindings then
    (h.withSurface { h.surface with bindings := h.surface.bindings.set (byteAt body 0) none }).accept []
  else h.refuse .badValue

def BindingAction.bytes : BindingAction → List Byte
  | .streamTrigger i => 0 :: bytesOf 2 i
  | .streamStop i => 1 :: bytesOf 2 i
  | .streamMuteToggle i => 2 :: bytesOf 2 i
  | .clearClips => 3 :: zeros 2
  | .cueFire tag => 4 :: bytesOf 2 tag

/-- A binding in SET_BINDING form, 10 bytes. -/
def Binding.bytes (b : Binding) (i : Nat) : List Byte :=
  [oneByte i, oneByte b.key.node, oneByte b.key.control, oneByte b.edge.code] ++
    (match b.qualifier with
     | none => zeros 3
     | some q => [1, oneByte q.node, oneByte q.control]) ++ b.action.bytes

/-- The occupied entries with their indexes. -/
def occupied : List (Option Binding) → Nat → List (Nat × Binding)
  | [], _ => []
  | none :: rest, i => occupied rest (i + 1)
  | some b :: rest, i => (i, b) :: occupied rest (i + 1)

/-- LIST_BINDINGS' handler. -/
def listBindings : Handler := fun h _ body =>
  if body.length ≠ 0 then h.refuse .malformed
  else
    let held := occupied h.surface.bindings 0
    h.accept (oneByte held.length :: held.flatMap (fun e => e.2.bytes e.1))

/-! ### Meanings -/

/-- SET_BINDING (R163). -/
def execSetBinding (tag : Tag) (body : List Byte) (s : State) : Host.Outcome State Fault Refusal :=
  s.onHub (fun h => h.command 0x58 setBinding tag body)

/-- CLEAR_BINDING (R163). -/
def execClearBinding (tag : Tag) (body : List Byte) (s : State) : Host.Outcome State Fault Refusal :=
  s.onHub (fun h => h.command 0x59 clearBinding tag body)

/-- LIST_BINDINGS (R163). -/
def execListBindings (tag : Tag) (body : List Byte) (s : State) : Host.Outcome State Fault Refusal :=
  s.onHub (fun h => h.command 0x5A listBindings tag body)

end Sys2Proof.Machine
end

