-- ==== Sys2Proof/Machine/Exchanges.lean ====
section
/-! DEFINITION. Chapter 9: how an exchange ends and what its outcome does to the node (R141 to R147, R150), with event handling for
an accepted report. -/

namespace Sys2Proof.Machine

/-- Post NODE_STATE (R148). -/
def Hub.postNode (h : Hub) (a : Nat) (st : NodeState) (reason : NodeReason) : Hub := h.post (.nodeState a st reason)

/-- Change a node's record. -/
def Hub.editNode (h : Hub) (a : Nat) (f : Node → Node) : Hub :=
  match h.node a with
  | none => h
  | some n => h.putNode a (f n)

/-- An ONLINE node becomes OFFLINE, its round counter 0 (R138, R139, R144, R145). -/
def Hub.nodeOffline (h : Hub) (a : Nat) (reason : NodeReason) : Hub :=
  ((h.leaveOnline a .offline).editNode a (fun n => { n with rounds := 0 })).postNode a .offline reason

/-- A node becomes HALTED by its answer (R146, R147). -/
def Hub.nodeHalted (h : Hub) (a : Nat) : Hub := (h.leaveOnline a .halted).postNode a .halted .halted

/-- A valid answer of an ONLINE node reloads its allowance (R144). -/
def Hub.reloadAllowance (h : Hub) (a : Nat) : Hub := h.editNode a (fun n => { n with allowance := n.reload })

/-- An error of an exchange with an ONLINE node (R144). -/
def Hub.exchangeError (h : Hub) (a : Nat) : Hub :=
  match h.node a with
  | none => h
  | some n =>
    let h1 := h.putNode a { n with allowance := n.allowance - 1 }
    if n.allowance ≤ 1 then h1.nodeOffline a .allowance else h1

/-- What the outcomes of a full visit's exchanges have in common (R141 to R143): errors, babble, HALTED and NAK. `answered` is the
effect of the answer that is this exchange's own, with its payload. -/
def Hub.commonEnd (h : Hub) (a : Nat) (o : LineOutcome) (answered : List Byte → Hub) : Hub :=
  match o with
  | .valid type payload =>
    if type = packetHalted then h.nodeHalted a
    else if type = packetNak then h.reloadAllowance a
    else answered payload
  | .babble => h.nodeOffline a .babble
  | .timeout => h.exchangeError a
  | .framingError => h.exchangeError a
  | .nibbleError => h.exchangeError a
  | .crcError => h.exchangeError a
  | .protocolError => h.exchangeError a

/-- The packet that answers is the type given. -/
def LineOutcome.isType (o : LineOutcome) (type : Nat) : Bool :=
  match o with
  | .valid t _ => decide (t = type)
  | .babble => false
  | .timeout => false
  | .framingError => false
  | .nibbleError => false
  | .crcError => false
  | .protocolError => false

/-- After the first exchange of a full visit the part sends POLL, unless the node has left ONLINE (R140). -/
def Hub.thenPoll (h : Hub) (a : Nat) : Hub := if ((h.node a).map Node.state) = some .online then h.sendPoll a else h

/-- An acknowledged RESET of an ONLINE node (R141). RESET pending stays set for a reset command taken after this visit began (R150). -/
def Node.resetDone (n : Node) (forCommand : Bool) : Node :=
  { n with resetPending := n.resetCommand.isSome && !forCommand, toggle := false, touched := [], pressed := [], allowance := n.reload }

/-- A RESET exchange with an ONLINE node ends (R141, R150). -/
def Hub.resetEnd (h : Hub) (x : Exchange) (o : LineOutcome) : Hub :=
  let h1 := h.commonEnd x.node o (fun _ => h.editNode x.node (fun n => n.resetDone x.forCommand))
  let h2 := if x.forCommand then h1.answerReset x.node (if o.isType packetAck then .ok else .noResponse) else h1
  h2.thenPoll x.node

/-- The in-flight marks are cleared when a WRITE exchange ends (R142). -/
def Setting.landed (s : Setting) : Setting := { s with inFlight := false, replaced := false }

/-- An acknowledged WRITE: settings in flight leave the queue, but for those replaced meanwhile (R142). -/
def Node.writeDone (n : Node) : Node :=
  { n with queue := (n.queue.filter (fun s => !s.inFlight || s.replaced)).map Setting.landed, allowance := n.reload }

/-- A WRITE exchange ends (R142). -/
def Hub.writeEnd (h : Hub) (x : Exchange) (o : LineOutcome) : Hub :=
  let h1 := h.commonEnd x.node o (fun _ => h.editNode x.node Node.writeDone)
  (h1.editNode x.node (fun n => { n with queue := n.queue.map Setting.landed })).thenPoll x.node

/-- A report arrives from an ONLINE node (R143): accepted or a duplicate, the part sends ACK. -/
def Hub.reportArrived (h : Hub) (x : Exchange) (payload : List Byte) : Hub :=
  let h1 := (h.withSurface { h.surface with lastSent := packetOf packetAck x.node [] }).reloadAllowance x.node
  match h1.node x.node with
  | none => h1
  | some n =>
    if decide (byteAt payload 0 = 1) = n.toggle then
      (h1.putNode x.node { n with toggle := !n.toggle }).handleReport x.node (x.stamp.getD h.clock.n) payload
    else h1

/-- The POLL of a full visit ends (R143). -/
def Hub.pollEnd (h : Hub) (x : Exchange) (o : LineOutcome) : Hub := h.commonEnd x.node o (h.reportArrived x)

/-- A recovered node (R147). -/
def Node.recovered (n : Node) : Node :=
  { n with state := .online, allowance := n.reload, toggle := false, resetPending := true }

/-- A probe ends (R147). -/
def Hub.probeEnd (h : Hub) (x : Exchange) (o : LineOutcome) : Hub :=
  let h1 := h.editNode x.node (fun n => { n with rounds := 0 })
  match o with
  | .valid type _ =>
    if type = packetHalted then h1.nodeHalted x.node
    else (h1.editNode x.node Node.recovered).postNode x.node .online .recovered
  | .babble => h1
  | .timeout => h1
  | .framingError => h1
  | .nibbleError => h1
  | .crcError => h1
  | .protocolError => h1

/-- A HALTED node that acknowledged its RESET (R150). -/
def Node.restored (n : Node) : Node :=
  { n with state := .online, allowance := n.reload, toggle := false, resetPending := false }

/-- The reset visit of a HALTED node ends (R150). -/
def Hub.resetVisitEnd (h : Hub) (x : Exchange) (o : LineOutcome) : Hub :=
  if o.isType packetAck then
    (((h.editNode x.node Node.restored).postNode x.node .online .resetOk)).answerReset x.node .ok
  else (h.editNode x.node (fun n => { n with resetPending := false })).answerReset x.node .noResponse

/-- An exchange ends with an outcome, by its kind. -/
def Hub.exchangeOutcome (h : Hub) (x : Exchange) (o : LineOutcome) : Hub :=
  match x.kind with
  | .reset => h.resetEnd x o
  | .write => h.writeEnd x o
  | .poll => h.pollEnd x o
  | .probe => h.probeEnd x o
  | .resetVisit => h.resetVisitEnd x o

/-- The exchange in progress ends; the outcome of a discarded one changes nothing (R149), and a report that ends it is not acknowledged (DESIGN
CHOICE, log 61). -/
def Hub.endExchange (h : Hub) (x : Exchange) (o : LineOutcome) : Hub :=
  let h1 := h.withSurface { h.surface with exchange := none }
  if x.discarded then h1 else h1.exchangeOutcome x o

/-- An answer ends the exchange in progress, when that is of the kind named. -/
def Hub.answerArrives (h : Hub) (kind : ExchangeKind) (a : LineAnswer) : Hub :=
  match h.surface.exchange with
  | none => h
  | some x => if x.kind = kind then h.endExchange x (judge x.node kind.answers a) else h

/-- No start bit within 100 µs of the part's packet: the exchange ends in timeout (R136). -/
def Hub.answerTimeout (h : Hub) : Hub :=
  match h.surface.exchange with
  | none => h
  | some x => h.endExchange x .timeout

/-! ### Meanings -/

/-- ANSWER_TIMEOUT (R136). -/
def execAnswerTimeout (s : State) : Host.Outcome State Fault Refusal := s.onLive Hub.answerTimeout

/-- RESET_EXCHANGE_END (R141). -/
def execResetExchangeEnd (answer : LineAnswer) (s : State) : Host.Outcome State Fault Refusal :=
  s.onLive (fun h => h.answerArrives .reset answer)

/-- WRITE_EXCHANGE_END (R142). -/
def execWriteExchangeEnd (answer : LineAnswer) (s : State) : Host.Outcome State Fault Refusal :=
  s.onLive (fun h => h.answerArrives .write answer)

/-- POLL_EXCHANGE_END (R143). -/
def execPollExchangeEnd (answer : LineAnswer) (s : State) : Host.Outcome State Fault Refusal :=
  s.onLive (fun h => h.answerArrives .poll answer)

/-- PROBE_END (R147). -/
def execProbeEnd (answer : LineAnswer) (s : State) : Host.Outcome State Fault Refusal :=
  s.onLive (fun h => h.answerArrives .probe answer)

/-- RESET_VISIT_END (R150). -/
def execResetVisitEnd (answer : LineAnswer) (s : State) : Host.Outcome State Fault Refusal :=
  s.onLive (fun h => h.answerArrives .resetVisit answer)

end Sys2Proof.Machine
end

