-- ==== Sys2Proof/Machine/ClockCommands.lean ====
section
/-! DEFINITION. SET_CLOCK with its rate change (R12 to R15) and GET_CLOCK (R17). -/

namespace Sys2Proof.Machine

/-- A stream in a state that blocks a rate change (R13). -/
def Stream.blocksRate (st : Stream) : Bool :=
  decide (st.state = .armed) || decide (st.state = .running) || decide (st.state = .draining)

/-- A rate change is refused BUSY now (R13). -/
def Hub.rateBlocked (h : Hub) : Bool :=
  h.engine.streams.any (fun o => (o.map Stream.blocksRate).getD false) || h.ports.any (fun pt => decide (pt.state ≠ .off))

/-- Source and rate as configured by SET_CLOCK: a measurement is abandoned, and the detected rate follows R5 and R6. -/
def MediaClock.configured (c : MediaClock) (src : Source) (rate : Rate) : MediaClock :=
  { c with
    source := src, rate := rate, measurement := none
    detected := match src with
      | .wordIn => none
      | .internal => some rate
      | .linkFrame => some rate }

/-- The state INTERNAL, where no lock run, timer or reference count is in use (R5). -/
def MediaClock.enterInternal (c : MediaClock) : MediaClock :=
  { c with
    state := .internal, lockRun := 0, timer := none, matched := false, refRun := 0, anchor := none, sinceAnchor := 0 }

/-- The new state that a selected source decides (R12, R14). -/
def Hub.enterSource (h : Hub) : Hub :=
  match h.clock.source with
  | .internal => h.withClock h.clock.enterInternal
  | .wordIn => h.enterAcquiring false
  | .linkFrame => h.enterAcquiring false

/-- A new source at the same rate (R12). -/
def Hub.changeSource (h : Hub) (src : Source) : Hub :=
  ((h.withClock (h.clock.configured src h.clock.rate)).enterSource).postClock .sourceChanged

/-- N zeroed at a rate change, with the held correction and the crystal switch of a change across families (R3, R14). -/
def MediaClock.zeroed (c : MediaClock) (across : Bool) : MediaClock :=
  { c with n := 0, held := if across then nominal else c.held, switching := c.switching || across }

/-- A report whose last character was received before the rate change is stamped 0 (R155). -/
def Surface.restamped (s : Surface) : Surface :=
  { s with exchange := s.exchange.map (fun x => { x with stamp := x.stamp.map (fun _ => 0) }) }

/-- What an accepted rate change does to the blocks that count in positions or in cycles of M (R15, R155). -/
def Hub.rateEffects (h : Hub) (across : Bool) : Hub :=
  (((h.stopTallies).outputsRateChange across).metersRateChange).withSurface h.surface.restamped

/-- An accepted rate change (R14, R15). CUE_FLUSHED is posted before CLOCK_STATE; both are stamped 0. A port stopped in the frame in progress
keeps its wire frame, though R14 abandons that frame, until the first boundary at the new rate (DESIGN CHOICE, log 55). -/
def Hub.changeRate (h : Hub) (src : Source) (rate : Rate) : Hub :=
  let across := decide (rate.family ≠ h.clock.rate.family)
  let h1 := (h.rateEffects across).withClock ((h.clock.zeroed across).configured src rate)
  ((h1.flushCues .rateChange).enterSource).postClock .sourceChanged

/-- SET_CLOCK's handler (R12, R13). -/
def setClock : Handler := fun h _ body =>
  if body.length ≠ 2 then h.refuse .malformed
  else
    match Source.ofCode (byteAt body 0), Rate.ofCode (byteAt body 1) with
    | some src, some rate =>
      if rate ≠ h.clock.rate then
        (if h.rateBlocked then h.refuse .busy else (h.changeRate src rate).accept [])
      else if src ≠ h.clock.source then (h.changeSource src).accept []
      else h.accept []
    | _, _ => h.refuse .badValue

/-- GET_CLOCK's handler (R17). -/
def getClock : Handler := fun h _ body =>
  if body.length ≠ 0 then h.refuse .malformed
  else
    h.accept ([oneByte h.clock.source.code, oneByte h.clock.rate.code, oneByte h.clock.state.code,
      oneByte (detectedCode h.clock.detected)] ++ bytesOf 6 h.clock.n ++ bytesOf 2 h.link.mark.frame.toNat ++
      bytesOf 6 h.link.mark.position)

/-! ### Meanings -/

/-- SET_CLOCK (R12). -/
def execSetClock (tag : Tag) (body : List Byte) (s : State) : Host.Outcome State Fault Refusal :=
  s.onHub (fun h => h.command 0x01 setClock tag body)

/-- GET_CLOCK (R17). -/
def execGetClock (tag : Tag) (body : List Byte) (s : State) : Host.Outcome State Fault Refusal :=
  s.onHub (fun h => h.command 0x02 getClock tag body)

end Sys2Proof.Machine
end

