-- ==== Sys2Proof/Machine/Boundary.lean ====
section
/-! DEFINITION. FRAME_BOUNDARY (R1): N advances by one, and every block does its work for the frame that begins. -/

namespace Sys2Proof.Machine

/-- N goes from p to p + 1 (R1): notices posted at the boundary that begins p carry p + 1. -/
def Hub.advanceN (h : Hub) : Hub := h.withClock { h.clock with n := h.clock.n + 1 }

/-- Every block's work at the boundary that begins frame p. Cues act first, so that a block settles frame p after the actions due at p
(R96); a meter period is evaluated before the sample of frame p is taken (R167), and a level watch triggers before frame p is
written (R170), so a cue comes before a level watch met on the same stream (DESIGN CHOICE, log 22); ports exchange what the Stream Engine settled
(R118). A RUNNING PLAY stream that a cue stops at p ends in the Stream Engine's share, so its STREAM_STATE follows every CUE_FIRED of the boundary
(DESIGN CHOICE, log 66). -/
def Hub.boundaryWork (h : Hub) (p mCycles : Nat) (wire : List (List SlotWord)) : Hub :=
  let h1 := (h.portsBegin p wire).fireDue p
  let h2 := ((h1.outputsAtBoundary mCycles).metersPeriodEnd p).talliesAtBoundary p
  let h3 := (h2.settlePlay p).captureWrite p
  (h3.portsShiftOut.metersSample p).drawn

/-- The boundary that begins frame N. During a crystal switch no boundary occurs (R3). -/
def Hub.frameBoundary (h : Hub) (mCycles : Nat) (wire : List (List SlotWord)) : Hub :=
  if h.clock.switching then h else h.advanceN.boundaryWork h.clock.n mCycles wire

/-- FRAME_BOUNDARY (R1): `mCycles` cycles of M have passed since whatever was taken before, and `wire` holds the slots each port
shifted in during the wire frame that ends here. -/
def execFrameBoundary (mCycles : Nat) (wire : List (List SlotWord)) (s : State) : Host.Outcome State Fault Refusal :=
  s.onLive (fun h => h.frameBoundary mCycles wire)

end Sys2Proof.Machine
end

