-- ==== Sys2Proof/Machine/Messages.lean ====
section
/-! DEFINITION. Chapter 12: messages the part sends (R178, R179, R181, R185, R186), DESCRIBE (R182), the resets of the part (R183)
and of the link (R184). -/

namespace Sys2Proof.Machine

/-! ### Encoding (R179, R185, R186) -/

/-- A kind byte: the kind, with its ones complement in the high four bits. -/
def kindByte (k : Nat) : Byte := oneByte (k + 16 * (15 - k))

def kindCommand : Nat := 1
def kindPlayBlock : Nat := 2
def kindReply : Nat := 9
def kindCapture : Nat := 10
def kindNotice : Nat := 11

/-- A message: header and body; a body longer than 65,535 bytes carries 65,535 in the length field (R179). -/
def messageBytes (kind : Nat) (code : Byte) (tag : Tag) (body : List Byte) : List Byte :=
  [kindByte kind, code] ++ bytesOf 2 tag.toNat ++ bytesOf 2 (min body.length 65535) ++ body

/-- A reply's body: status, then result fields when OK, the byte index when NO_ACK_DATA, nothing otherwise. -/
def Reply.body (r : Reply) : List Byte :=
  oneByte r.status.code ::
    (match r.status with
     | .ok => r.fields
     | .noAckData i => [oneByte i]
     | _ => [])

/-- The packets of an IN transfer (R179): 512 bytes each, and a last one that is shorter, of zero length when the message's length is a multiple
of 512. -/
def inPackets (bytes : List Byte) : List (List Byte) :=
  (numbers 0 (bytes.length / 512 + 1)).map (fun i => (bytes.drop (512 * i)).take 512)

/-- The packets of the message being sent. -/
def Sending.packets (m : Sending) : List (List Byte) := inPackets m.bytes

def Reply.bytes (r : Reply) : List Byte := messageBytes kindReply r.code r.tag r.body

/-- A notice's kind code. -/
def NoticeBody.code : NoticeBody → Nat
  | .clockState .. => 1
  | .streamState .. => 2
  | .streamGap .. => 3
  | .blockRefused .. => 4
  | .played .. => 5
  | .cueFired .. => 6
  | .cueFlushed .. => 7
  | .portState .. => 8
  | .nodeState .. => 9
  | .surfaceEvent .. => 10
  | .clip .. => 11
  | .linkError .. => 12

/-- A notice's own fields, after the stamp. -/
def NoticeBody.fields : NoticeBody → List Byte
  | .clockState st src rate det reason =>
    [oneByte st.code, oneByte src.code, oneByte rate.code, oneByte (detectedCode det), oneByte reason.code]
  | .streamState i st reason clamped raised s e =>
    [oneByte i, oneByte st.code, oneByte reason.code, streamStateFlags clamped raised] ++ optBytes 6 s ++ optBytes 6 e
  | .streamGap i first total => oneByte i :: (bytesOf 6 first ++ bytesOf 4 total)
  | .blockRefused i reason start frames => [oneByte i, oneByte reason.code] ++ bytesOf 6 start ++ bytesOf 4 frames
  | .played i pos => oneByte i :: bytesOf 6 pos
  | .cueFired tag due fire r index late skipped =>
    bytesOf 2 tag ++ bytesOf 6 due ++ bytesOf 6 fire ++ [oneByte r.code, oneByte index, cueFiredFlags late skipped]
  | .cueFlushed count cause => [oneByte count, oneByte cause.code]
  | .portState i st reason entry index => [oneByte i, oneByte st.code, oneByte reason.code] ++ optBytes 1 entry ++ [oneByte index]
  | .nodeState a st reason => [oneByte a, oneByte st.code, oneByte reason.code]
  | .surfaceEvent a c k v stamp bound =>
    [oneByte a, oneByte c, oneByte k.code] ++ bytesOf 2 (v % 65536).toNat ++ bytesOf 6 stamp ++ [surfaceFlags bound]
  | .clip m pos => oneByte m :: bytesOf 6 pos
  | .linkError k => [oneByte k.code]

/-- A notice as sent, with the LOST flag it receives at the taking (R181). -/
def Notice.bytes (w : Notice) (lost : Bool) : List Byte :=
  messageBytes kindNotice (oneByte w.body.code) 0 ([noticeFlags lost] ++ bytesOf 6 w.stamp ++ w.body.fields)

/-! ### The transmit arbiter (R178) -/

/-- Take the oldest reply: it leaves the queue, and its entry is freed. -/
def Link.takeReply (l : Link) (r : Reply) (rest : List Reply) : Link :=
  { l with replies := rest, sending := some ⟨.reply, r.bytes⟩ }

/-- Take the oldest notice: it leaves the queue with the LOST flag, which is cleared; the count returns to 0. -/
def Link.takeNotice (l : Link) (w : Notice) (rest : List Notice) : Link :=
  { l with notices := rest, lost := false, count := 0, sending := some ⟨.notice, w.bytes l.lost⟩ }

/-- Take an offered capture block: its contents are fixed, its stream moves on, and the count goes up to 4 at most. -/
def Hub.takeCapture (h : Hub) (o : Offer) : Hub :=
  match h.stream o.stream with
  | none => h
  | some st =>
    let body := captureBody st o h.link.mark h.engine.pool
    (h.withLink { h.link with
      count := min 4 (h.link.count + 1)
      sending := some ⟨.captureBlock, messageBytes kindCapture 0 0 body⟩ }).takeBlock st o

/-- The arbiter chooses between a capture block and a notice when no reply waits. -/
def Hub.takeOther (h : Hub) : Hub :=
  match h.bestOffer, h.link.notices with
  | none, [] => h
  | none, w :: rest => h.withLink (h.link.takeNotice w rest)
  | some o, [] => h.takeCapture o
  | some o, w :: rest => if h.link.count = 4 then h.withLink (h.link.takeNotice w rest) else h.takeCapture o

/-- The link carries messages to the computer now, and none is being sent. -/
def Link.pipeFree (l : Link) : Bool := l.configured && l.sending.isNone

/-- The arbiter takes the next message (R178). -/
def Hub.transmitTake (h : Hub) : Hub :=
  if h.link.pipeFree then
    match h.link.replies with
    | r :: rest => h.withLink (h.link.takeReply r rest)
    | [] => h.takeOther
  else h

/-- The last packet of the message being sent has left (R178). -/
def Hub.messageSent (h : Hub) : Hub := h.withLink { h.link with sending := none }

/-! ### DESCRIBE (R182) -/

/-- "Gerasko", eight bytes. -/
def vendorText : List Byte := [0x47, 0x65, 0x72, 0x61, 0x73, 0x6B, 0x6F, 0]

/-- "BN2448", eight bytes. -/
def partText : List Byte := [0x42, 0x4E, 0x32, 0x34, 0x34, 0x38, 0, 0]

/-- The capacities in the order of R182's table. -/
def capacityBytes : List Byte :=
  [oneByte Config.nStreams, oneByte Config.nChannels] ++ bytesOf 2 Config.poolPages ++ bytesOf 2 Config.pageWords ++
    [Config.nMarks, Config.cueCapacity, Config.nPorts, Config.nSlots, Config.initCapacity, Config.busWaiting, Config.nNodes,
      Config.queueCapacity, Config.nControls, Config.nBindings, Config.nMeters, Config.nOutputs, Config.nTallies, Config.nEntries,
      Config.noticeCapacity].map oneByte ++ bytesOf 2 Config.maxBody

/-- DESCRIBE's handler. -/
def describe : Handler := fun h _ body =>
  if body.length ≠ 0 then h.refuse .malformed else h.accept (vendorText ++ partText ++ [3] ++ capacityBytes)

/-! ### RESET_PART (R183) -/

/-- The Media Clock (R18); a crystal switch follows when the XA crystal was in use (R3). -/
def MediaClock.resetPart (c : MediaClock) : MediaClock :=
  { MediaClock.reset with switching := c.switching || decide (c.rate.family = .xa) }

/-- The Clock Output Unit (R24, R25): periods in progress are completed. -/
def OutputUnit.resetPart (u : OutputUnit) (fromXa : Bool) : OutputUnit :=
  { u with
    zeroNext := true, switchPending := u.switchPending || fromXa, sinceFrame := none
    outs := u.outs.map (fun o => o.resetPart fromXa) }

/-- A port (R108): the wire frame in progress on its pins is completed. -/
def Port.resetPart (pt : Port) : Port := { Port.reset with clocked := pt.clocked, sdOut := pt.sdOut }

/-- The Control Bus Engine (R133): no job, READY; the ending of an active job is the release of the bus. -/
def ControlBus.resetPart (b : ControlBus) : ControlBus :=
  { ControlBus.reset with release := (b.active.map (fun j => { j with ending := true })).or b.release, lastWire := b.lastWire }

/-- The part may be sending: an exchange is in progress of which no report has been received whole, or an ACK was the last packet. -/
def Surface.maySend (s : Surface) : Bool :=
  match s.exchange with
  | some x => x.stamp.isNone
  | none => decide (s.lastSent.head? = some (typeByte packetAck))

/-- The Surface Controller (R154): an exchange in progress is cut short and discarded. `bits` bit times of the last packet have passed:
the part completes the character in progress and releases SBE. -/
def Surface.resetPart (s : Surface) (bits : Nat) : Surface :=
  { Surface.reset with lastSent := if s.maySend then s.lastSent.take (bits / 10 + 1) else s.lastSent }

/-- The Link Interface acts on itself (R183): the reset's own entry stays held, mark and assembly are kept. -/
def Link.resetPart (l : Link) (own : Nat) : Link :=
  { l with held := [own], replies := [], notices := [], lost := false, count := 0 }

/-- Every block at its reset values. How far the packet on the surface bus had got is a free value. -/
def Hub.resetPart (h : Hub) (own : Nat) : Hub :=
  { h with
    clock := h.clock.resetPart
    outputs := h.outputs.resetPart (decide (h.clock.rate.family = .xa))
    tallies := List.replicate Config.nTallies Tally.reset
    engine := { StreamEngine.reset with pool := h.engine.pool }
    cues := []
    ports := h.ports.map Port.resetPart
    bus := h.bus.resetPart
    surface := h.surface.resetPart (Config.bitsSent h.draws)
    meters := List.replicate Config.nMeters Meter.reset
    link := h.link.resetPart own
    draws := h.draws + 1 }

/-- RESET_PART's handler. -/
def resetPart : Handler := fun h ctx body =>
  if body.length ≠ 0 then h.refuse .malformed else (h.resetPart ctx.entry).accept []

/-! ### Resets of the machine and of the link (R183, R184) -/

/-- Every block at its power-on reset values. -/
def Hub.powerOn (h : Hub) : Hub := { Hub.reset with draws := h.draws }

/-- A link reset (R184). -/
def Link.resetLink (l : Link) (cause : LinkResetCause) : Link :=
  { Link.reset with
    suspended := decide (cause = .suspend) && (l.configured || l.suspended)
    mark := l.mark, lastFrame := l.lastFrame, serial := l.serial }

/-- A configuration by the computer. -/
def Link.configure (l : Link) : Link := { l with configured := true, suspended := false }

/-- A resume that ends a suspend of a configured link. -/
def Link.wake (l : Link) : Link := if l.suspended then l.configure else l

/-! ### Meanings -/

/-- POWER_ON_RESET (R183): RESET_N is held low. -/
def execPowerOnReset (s : State) : Host.Outcome State Fault Refusal := s.onHub Hub.powerOn

/-- RESET_N_RELEASE (R154): RESET_N returns high, and the part starts from its reset values. -/
def execResetNRelease (s : State) : Host.Outcome State Fault Refusal := s.onHub (fun h => { h with resetN := true })

/-- TRANSMIT_TAKE (R178). -/
def execTransmitTake (s : State) : Host.Outcome State Fault Refusal := s.onLive Hub.transmitTake

/-- MESSAGE_SENT (R178). -/
def execMessageSent (s : State) : Host.Outcome State Fault Refusal := s.onLive Hub.messageSent

/-- DESCRIBE (R182). -/
def execDescribe (tag : Tag) (body : List Byte) (s : State) : Host.Outcome State Fault Refusal :=
  s.onHub (fun h => h.command 0x70 describe tag body)

/-- RESET_PART (R183). -/
def execResetPart (tag : Tag) (body : List Byte) (s : State) : Host.Outcome State Fault Refusal :=
  s.onHub (fun h => h.command 0x71 resetPart tag body)

/-- LINK_RESET (R184). -/
def execLinkReset (cause : LinkResetCause) (s : State) : Host.Outcome State Fault Refusal :=
  s.onLive (fun h => h.withLink (h.link.resetLink cause))

/-- CONFIGURATION (R184). -/
def execConfiguration (s : State) : Host.Outcome State Fault Refusal := s.onLive (fun h => h.withLink h.link.configure)

/-- RESUME (R184). -/
def execResume (s : State) : Host.Outcome State Fault Refusal := s.onLive (fun h => h.withLink h.link.wake)

end Sys2Proof.Machine
end

