-- ==== Sys2Proof/Machine/Inbound.lean ====
section
/-! DEFINITION. Chapter 12: the assembly of inbound messages, their framing failures, and dispatch by command code
(R174 to R177, R186). -/

namespace Sys2Proof.Machine

/-! ### The command table (chapter 13) -/

/-- The handler of a command code; `none` names no command (R176). -/
def handlerOf (code : Nat) : Option Handler :=
  match code with
  | 0x01 => some setClock
  | 0x02 => some getClock
  | 0x10 => some setClockOutput
  | 0x11 => some getOutputs
  | 0x12 => some setTally
  | 0x13 => some runTally
  | 0x14 => some stopTally
  | 0x20 => some defineStream
  | 0x21 => some armStream
  | 0x22 => some triggerStream
  | 0x23 => some stopStream
  | 0x24 => some deleteStream
  | 0x25 => some getStream
  | 0x26 => some getPool
  | 0x30 => some postCue
  | 0x31 => some cancelCue
  | 0x32 => some listCues
  | 0x33 => some flushCues
  | 0x40 => some configurePort
  | 0x41 => some setInitList
  | 0x42 => some startPort
  | 0x43 => some stopPort
  | 0x44 => some getPort
  | 0x48 => some converterXfer
  | 0x49 => some abortXfer
  | 0x4A => some getControlBus
  | 0x50 => some setNode
  | 0x51 => some resetNode
  | 0x52 => some surfaceWrite
  | 0x53 => some getNode
  | 0x58 => some setBinding
  | 0x59 => some clearBinding
  | 0x5A => some listBindings
  | 0x60 => some setMeter
  | 0x61 => some setMeterDisplay
  | 0x62 => some readMeters
  | 0x63 => some clearMeters
  | 0x70 => some describe
  | 0x71 => some resetPart
  | _ => none

/-- The Link Interface's own answer to a code that names no command (R176). -/
def unknownCommand : Handler := fun h _ _ => h.refuse .unknownCommand

/-- The handler that takes a command of any code. -/
def anyHandler (code : Byte) : Handler := (handlerOf code.toNat).getD unknownCommand

/-! ### Assembly (R174, R175) -/

/-- Post LINK_ERROR (R175). -/
def Hub.linkError (h : Hub) (k : LinkErrorKind) : Hub := h.post (.linkError k)

def Hub.withAssembly (h : Hub) (a : Assembly) : Hub := h.withLink { h.link with assembly := a }

/-- A message is complete, and assembly resumes at the next header. A play block goes to the Stream Engine; a command is dispatched,
or dispatch pauses at it (R174, R177). -/
def Hub.dispatch (h : Hub) (kind : Nat) (code : Byte) (tag : Tag) (body : List Byte) : Hub :=
  let h1 := h.withAssembly (.gather [])
  if kind = kindPlayBlock then h1.takePlayBlock body else h1.command code (anyHandler code) tag body

/-- The body length that a header declares. -/
def declaredLength (header : List Byte) : Nat := fieldAt header 4 2

/-- The kind in a header. -/
def headerKind (header : List Byte) : Nat := byteAt header 0 % 16

/-- A header or body has grown to `bytes`, whose header is complete and good; a complete message is dispatched. -/
def Hub.grown (h : Hub) (bytes : List Byte) : Hub :=
  if bytes.length = 6 + declaredLength bytes then
    h.dispatch (headerKind bytes) (rawByte bytes 1) (BitVec.ofNat 16 (fieldAt bytes 2 2)) (bytes.drop 6)
  else h.withAssembly (.gather bytes)

/-- A header is complete: its checks, in order (R174's table). -/
def Hub.headerComplete (h : Hub) (header : List Byte) : Hub :=
  if byteAt header 0 ≠ (kindByte (headerKind header)).toNat then (h.withAssembly .discard).linkError .badCheck
  else if Config.maxBody < declaredLength header then (h.withAssembly .discard).linkError .tooLong
  else if headerKind header ≠ kindCommand ∧ headerKind header ≠ kindPlayBlock then
    (h.withAssembly (if declaredLength header = 0 then .gather [] else .skip (declaredLength header))).linkError .badKind
  else h.grown header

/-- Assembly takes one byte of the transfer. -/
def Hub.takeByte (h : Hub) (b : Byte) : Hub :=
  match h.link.assembly with
  | .gather got =>
    let bytes := got ++ [b]
    if bytes.length < 6 then h.withAssembly (.gather bytes)
    else if bytes.length = 6 then h.headerComplete bytes
    else h.grown bytes
  | .skip left => h.withAssembly (if left ≤ 1 then .gather [] else .skip (left - 1))
  | .discard => h

/-- Assembly takes bytes until it runs out of them or dispatch pauses; the bytes left over are answered. -/
def feed : List Byte → Hub → Hub × List Byte
  | [], h => (h, [])
  | b :: rest, h => if h.link.paused.isSome then (h, b :: rest) else feed rest (h.takeByte b)

/-- A transfer ends: a partial message is discarded with TRUNCATED (R174). -/
def Hub.transferEnd (h : Hub) : Hub :=
  match h.link.assembly with
  | .gather [] => h
  | .gather (_ :: _) => (h.withAssembly (.gather [])).linkError .truncated
  | .skip _ => (h.withAssembly (.gather [])).linkError .truncated
  | .discard => h.withAssembly (.gather [])

/-- Bytes reach assembly, and `ends` tells that the transfer ends with them. Behind a paused command they wait (R177). -/
def Hub.takeBytes (h : Hub) (bytes : List Byte) (ends : Bool) : Hub :=
  match feed bytes h with
  | (h1, rest) =>
    if h1.link.paused.isSome then h1.withLink { h1.link with behind := rest, behindEnds := ends }
    else
      let h2 := h1.withLink { h1.link with behind := [], behindEnds := false }
      if ends then h2.transferEnd else h2

/-- The part accepts OUT packets now (R177, R183). -/
def Link.acceptsPackets (l : Link) : Bool := l.configured && l.paused.isNone && decide (l.entriesHeld < Config.nEntries)

/-- An OUT packet of up to 512 bytes; a shorter one ends its transfer (R174). While the part accepts none, USB holds it back. -/
def Hub.outPacket (h : Hub) (bytes : List Byte) : Hub :=
  if h.link.acceptsPackets ∧ bytes.length ≤ 512 then h.takeBytes bytes (decide (bytes.length < 512)) else h

/-- The paused command is dispatched once an entry is free, and the bytes behind it go on (R177). -/
def Hub.dispatchResume (h : Hub) : Hub :=
  match h.link.paused with
  | none => h
  | some c =>
    if h.link.entriesHeld < Config.nEntries then
      ((h.withLink { h.link with paused := none }).runCommand c.code (anyHandler c.code) c.tag c.body).takeBytes h.link.behind
        h.link.behindEnds
    else h

/-! ### Meanings -/

/-- OUT_PACKET (R174). -/
def execOutPacket (bytes : List Byte) (s : State) : Host.Outcome State Fault Refusal :=
  s.onLive (fun h => h.outPacket bytes)

/-- UNKNOWN_COMMAND (R176): a command whose code names no command; a code that names one is that command's own row. -/
def execUnknownCommand (code : Byte) (tag : Tag) (body : List Byte) (s : State) : Host.Outcome State Fault Refusal :=
  s.onHub (fun h => if (handlerOf code.toNat).isNone then h.command code unknownCommand tag body else h)

/-- DISPATCH_RESUME (R177). -/
def execDispatchResume (s : State) : Host.Outcome State Fault Refusal := s.onLive Hub.dispatchResume

end Sys2Proof.Machine
end

