-- ==== Sys2Proof/Machine/Dispatch.lean ====
section
/-! DEFINITION. What each command does: one arm per constructor of `Instr`, each a direct call of its meaning. -/

namespace Sys2Proof.Machine

def exec (i : Instr) (s : State) : Host.Outcome State Fault Refusal :=
  match i with
  | .powerOnReset => Sys2Proof.Machine.execPowerOnReset s
  | .resetNRelease => Sys2Proof.Machine.execResetNRelease s
  | .frameBoundary mCycles wire => Sys2Proof.Machine.execFrameBoundary mCycles wire s
  | .crystalSwitchDone => Sys2Proof.Machine.execCrystalSwitchDone s
  | .wckiEdge phase cycles => Sys2Proof.Machine.execWckiEdge phase cycles s
  | .rateMeasurementComplete phase cycles => Sys2Proof.Machine.execRateMeasurementComplete phase cycles s
  | .acquireLock ev => Sys2Proof.Machine.execAcquireLock ev s
  | .referenceTimeout => Sys2Proof.Machine.execReferenceTimeout s
  | .acquireTimeout => Sys2Proof.Machine.execAcquireTimeout s
  | .linkCorrectionRecord frame phase => Sys2Proof.Machine.execLinkCorrectionRecord frame phase s
  | .linkReferenceReturn frame phase => Sys2Proof.Machine.execLinkReferenceReturn frame phase s
  | .startOfFrame frame phase => Sys2Proof.Machine.execStartOfFrame frame phase s
  | .setClock tag body => Sys2Proof.Machine.execSetClock tag body s
  | .getClock tag body => Sys2Proof.Machine.execGetClock tag body s
  | .setClockOutput tag body => Sys2Proof.Machine.execSetClockOutput tag body s
  | .clockOutputStart output mCycles => Sys2Proof.Machine.execClockOutputStart output mCycles s
  | .clockOutputPeriodEnd output mCycles atFrame => Sys2Proof.Machine.execClockOutputPeriodEnd output mCycles atFrame s
  | .getOutputs tag body => Sys2Proof.Machine.execGetOutputs tag body s
  | .setTally tag body => Sys2Proof.Machine.execSetTally tag body s
  | .runTally tag body => Sys2Proof.Machine.execRunTally tag body s
  | .stopTally tag body => Sys2Proof.Machine.execStopTally tag body s
  | .defineStream tag body => Sys2Proof.Machine.execDefineStream tag body s
  | .armStream tag body => Sys2Proof.Machine.execArmStream tag body s
  | .triggerStream tag body => Sys2Proof.Machine.execTriggerStream tag body s
  | .stopStream tag body => Sys2Proof.Machine.execStopStream tag body s
  | .deleteStream tag body => Sys2Proof.Machine.execDeleteStream tag body s
  | .getStream tag body => Sys2Proof.Machine.execGetStream tag body s
  | .getPool tag body => Sys2Proof.Machine.execGetPool tag body s
  | .playBlock body => Sys2Proof.Machine.execPlayBlock body s
  | .postCue tag body => Sys2Proof.Machine.execPostCue tag body s
  | .cancelCue tag body => Sys2Proof.Machine.execCancelCue tag body s
  | .listCues tag body => Sys2Proof.Machine.execListCues tag body s
  | .flushCues tag body => Sys2Proof.Machine.execFlushCues tag body s
  | .configurePort tag body => Sys2Proof.Machine.execConfigurePort tag body s
  | .setInitList tag body => Sys2Proof.Machine.execSetInitList tag body s
  | .startPort tag body => Sys2Proof.Machine.execStartPort tag body s
  | .stopPort tag body => Sys2Proof.Machine.execStopPort tag body s
  | .getPort tag body => Sys2Proof.Machine.execGetPort tag body s
  | .portSettled port => Sys2Proof.Machine.execPortSettled port s
  | .converterXfer tag body => Sys2Proof.Machine.execConverterXfer tag body s
  | .abortXfer tag body => Sys2Proof.Machine.execAbortXfer tag body s
  | .getControlBus tag body => Sys2Proof.Machine.execGetControlBus tag body s
  | .transactionEnd outcome => Sys2Proof.Machine.execTransactionEnd outcome s
  | .markedJobEnd progress => Sys2Proof.Machine.execMarkedJobEnd s progress
  | .busStuck progress => Sys2Proof.Machine.execBusStuck s progress
  | .busRecoveryEnd bothHigh pulses => Sys2Proof.Machine.execBusRecoveryEnd bothHigh s pulses
  | .busReleaseEnd progress => Sys2Proof.Machine.execBusReleaseEnd s progress
  | .roundStart => Sys2Proof.Machine.execRoundStart s
  | .visitStart => Sys2Proof.Machine.execVisitStart s
  | .reportReceived => Sys2Proof.Machine.execReportReceived s
  | .answerTimeout => Sys2Proof.Machine.execAnswerTimeout s
  | .resetExchangeEnd answer => Sys2Proof.Machine.execResetExchangeEnd answer s
  | .writeExchangeEnd answer => Sys2Proof.Machine.execWriteExchangeEnd answer s
  | .pollExchangeEnd answer => Sys2Proof.Machine.execPollExchangeEnd answer s
  | .probeEnd answer => Sys2Proof.Machine.execProbeEnd answer s
  | .resetVisitEnd answer => Sys2Proof.Machine.execResetVisitEnd answer s
  | .setNode tag body => Sys2Proof.Machine.execSetNode tag body s
  | .resetNode tag body => Sys2Proof.Machine.execResetNode tag body s
  | .surfaceWrite tag body => Sys2Proof.Machine.execSurfaceWrite tag body s
  | .getNode tag body => Sys2Proof.Machine.execGetNode tag body s
  | .setBinding tag body => Sys2Proof.Machine.execSetBinding tag body s
  | .clearBinding tag body => Sys2Proof.Machine.execClearBinding tag body s
  | .listBindings tag body => Sys2Proof.Machine.execListBindings tag body s
  | .setMeter tag body => Sys2Proof.Machine.execSetMeter tag body s
  | .setMeterDisplay tag body => Sys2Proof.Machine.execSetMeterDisplay tag body s
  | .readMeters tag body => Sys2Proof.Machine.execReadMeters tag body s
  | .clearMeters tag body => Sys2Proof.Machine.execClearMeters tag body s
  | .outPacket bytes => Sys2Proof.Machine.execOutPacket bytes s
  | .unknownCommand code tag body => Sys2Proof.Machine.execUnknownCommand code tag body s
  | .dispatchResume => Sys2Proof.Machine.execDispatchResume s
  | .transmitTake => Sys2Proof.Machine.execTransmitTake s
  | .messageSent => Sys2Proof.Machine.execMessageSent s
  | .describe tag body => Sys2Proof.Machine.execDescribe tag body s
  | .resetPart tag body => Sys2Proof.Machine.execResetPart tag body s
  | .linkReset cause => Sys2Proof.Machine.execLinkReset cause s
  | .configuration => Sys2Proof.Machine.execConfiguration s
  | .resume => Sys2Proof.Machine.execResume s

end Sys2Proof.Machine
end

