-- ==== Sys2Proof/Safety.lean ====
section
/-! DEFINITION. What statements about the hub speak of: which blocks a command may touch, when a command is dispatched and what its
reply leaves in the link, and the conditions the manual says always hold. -/

namespace Sys2Proof.Machine

/-! ### Blocks and frames -/

/-- The parts of the hub's state. `link` stands for the notices and replies that any block may add; `linkState` for all the rest of
the Link Interface. -/
inductive Block where
  | resetN
  | clock
  | outputs
  | tallies
  | engine
  | cues
  | ports
  | bus
  | surface
  | meters
  | link
  | linkState
  | draws
deriving DecidableEq, Repr, Inhabited

/-- What a block other than the Link Interface can do to it: post notices, and hand over replies that are ready. -/
inductive Link.Reports : Link → Link → Prop where
  | refl (l : Link) : Link.Reports l l
  | post {l l' : Link} (h : Link.Reports l l') (stamp : Nat) (body : NoticeBody) : Link.Reports l (l'.post stamp body)
  | answer {l l' : Link} (h : Link.Reports l l') (entry : Nat) (r : Reply) : Link.Reports l (l'.answer entry r)

/-- From `l` to `l'` a notice whose key no notice of `l` has was posted and waits with that stamp, if the queue had room for every notice posted:
it is not full at the end, or none has been lost (R180, R181). -/
def Link.Joined (l l' : Link) (stamp : Nat) (body : NoticeBody) : Prop :=
  (∀ w ∈ l.notices, w.body.key ≠ body.key) → l'.notices.length < 32 ∨ l'.lost = false → ⟨stamp, body⟩ ∈ l'.notices

/-- From `l` to `l'` a waiting notice was updated so, in its place and with that stamp (R180). -/
def Link.Updated (l l' : Link) (stamp : Nat) (old new : NoticeBody) : Prop :=
  ∀ (k : Nat) (was : Nat), l.notices[k]? = some ⟨was, old⟩ → l'.notices[k]? = some ⟨stamp, new⟩

/-- From `h` to `h'` only the blocks named have changed. -/
structure Hub.Within (bs : List Block) (h h' : Hub) : Prop where
  resetN : Block.resetN ∉ bs → h'.resetN = h.resetN
  clock : Block.clock ∉ bs → h'.clock = h.clock
  outputs : Block.outputs ∉ bs → h'.outputs = h.outputs
  tallies : Block.tallies ∉ bs → h'.tallies = h.tallies
  engine : Block.engine ∉ bs → h'.engine = h.engine
  cues : Block.cues ∉ bs → h'.cues = h.cues
  ports : Block.ports ∉ bs → h'.ports = h.ports
  bus : Block.bus ∉ bs → h'.bus = h.bus
  surface : Block.surface ∉ bs → h'.surface = h.surface
  meters : Block.meters ∉ bs → h'.meters = h.meters
  link : Block.link ∉ bs → h'.link = h.link
  linkState : Block.linkState ∉ bs → Link.Reports h.link h'.link
  draws : Block.draws ∉ bs → h'.draws = h.draws

/-- The blocks a cue's action may reach (R96). -/
def cueBlocks : List Block := [.engine, .bus, .surface, .outputs, .tallies, .meters, .cues, .link]

/-- Every block but the RESET_N pin and the count of free values drawn. -/
def allBlocks : List Block :=
  [.clock, .outputs, .tallies, .engine, .cues, .ports, .bus, .surface, .meters, .link, .linkState]

/-- The blocks a command may touch. A command of the computer takes a reply entry and is answered, so it touches the Link Interface. -/
def touches : Instr → List Block
  | .powerOnReset => .resetN :: allBlocks
  | .resetNRelease => [.resetN]
  | .frameBoundary .. => .clock :: .ports :: .draws :: cueBlocks
  | .crystalSwitchDone => [.clock]
  | .wckiEdge .. => [.clock, .draws, .link]
  | .rateMeasurementComplete .. => [.clock, .draws, .link]
  | .acquireLock .. => [.clock, .draws, .link, .linkState]
  | .referenceTimeout => [.clock, .link]
  | .acquireTimeout => [.clock, .link]
  | .linkCorrectionRecord .. => [.clock, .draws, .link, .linkState]
  | .linkReferenceReturn .. => [.clock, .draws, .link, .linkState]
  | .startOfFrame .. => [.clock, .draws, .link, .linkState]
  | .setClock .. => [.clock, .outputs, .tallies, .cues, .surface, .meters, .draws, .link, .linkState]
  | .getClock .. => [.link, .linkState]
  | .setClockOutput .. => [.outputs, .link, .linkState]
  | .clockOutputStart .. => [.outputs]
  | .clockOutputPeriodEnd .. => [.outputs]
  | .getOutputs .. => [.link, .linkState]
  | .setTally .. => [.tallies, .link, .linkState]
  | .runTally .. => [.tallies, .link, .linkState]
  | .stopTally .. => [.tallies, .link, .linkState]
  | .defineStream .. => [.engine, .link, .linkState]
  | .armStream .. => [.engine, .link, .linkState]
  | .triggerStream .. => [.engine, .link, .linkState]
  | .stopStream .. => [.engine, .link, .linkState]
  | .deleteStream .. => [.engine, .link, .linkState]
  | .getStream .. => [.link, .linkState]
  | .getPool .. => [.link, .linkState]
  | .playBlock .. => [.engine, .link]
  | .postCue .. => .linkState :: cueBlocks
  | .cancelCue .. => [.cues, .link, .linkState]
  | .listCues .. => [.link, .linkState]
  | .flushCues .. => [.cues, .link, .linkState]
  | .configurePort .. => [.ports, .link, .linkState]
  | .setInitList .. => [.ports, .link, .linkState]
  | .startPort .. => [.ports, .bus, .link, .linkState]
  | .stopPort .. => [.ports, .bus, .link, .linkState]
  | .getPort .. => [.link, .linkState]
  | .portSettled .. => [.ports, .link]
  | .converterXfer .. => [.bus, .link, .linkState]
  | .abortXfer .. => [.bus, .link, .linkState]
  | .getControlBus .. => [.link, .linkState]
  | .transactionEnd .. => [.bus, .ports, .link]
  | .markedJobEnd _ => [.bus, .ports, .link]
  | .busStuck _ => [.bus, .ports, .link]
  | .busRecoveryEnd .. => [.bus, .ports, .link]
  | .busReleaseEnd _ => [.bus]
  | .roundStart => [.surface]
  | .visitStart => [.surface]
  | .reportReceived => [.surface]
  | .answerTimeout => [.surface, .meters, .link]
  | .resetExchangeEnd .. => [.surface, .meters, .link]
  | .writeExchangeEnd .. => [.surface, .meters, .link]
  | .pollExchangeEnd .. => cueBlocks
  | .probeEnd .. => [.surface, .meters, .link]
  | .resetVisitEnd .. => [.surface, .link]
  | .setNode .. => [.surface, .meters, .link, .linkState]
  | .resetNode .. => [.surface, .link, .linkState]
  | .surfaceWrite .. => [.surface, .link, .linkState]
  | .getNode .. => [.link, .linkState]
  | .setBinding .. => [.surface, .link, .linkState]
  | .clearBinding .. => [.surface, .link, .linkState]
  | .listBindings .. => [.link, .linkState]
  | .setMeter .. => [.meters, .link, .linkState]
  | .setMeterDisplay .. => [.meters, .link, .linkState]
  | .readMeters .. => [.link, .linkState]
  | .clearMeters .. => [.meters, .link, .linkState]
  | .outPacket .. => .draws :: allBlocks
  | .unknownCommand .. => [.link, .linkState]
  | .dispatchResume => .draws :: allBlocks
  | .transmitTake => [.engine, .link, .linkState]
  | .messageSent => [.link, .linkState]
  | .describe .. => [.link, .linkState]
  | .resetPart .. => .draws :: allBlocks
  | .linkReset .. => [.link, .linkState]
  | .configuration => [.link, .linkState]
  | .resume => [.link, .linkState]

/-- A command message that may set N to 0: SET_CLOCK of its length, and RESET_PART (R14, R183). -/
def zeroCommand (code : Byte) (body : List Byte) : Prop := code = 0x01 ∧ body.length = 2 ∨ code = 0x71 ∧ body = []

/-- The bytes hold such a message whole (R174's header of six bytes, then its body), and it is no play block. -/
def carriesZero (bytes : List Byte) : Prop :=
  ∃ before msg after, bytes = before ++ msg ++ after ∧ msg.length = 6 + declaredLength msg ∧ headerKind msg ≠ kindPlayBlock ∧
    zeroCommand (rawByte msg 1) (msg.drop 6)

/-- The bytes of a message that have been gathered so far (R174). -/
def Link.gathered (l : Link) : List Byte :=
  match l.assembly with
  | .gather got => got
  | .skip _ => []
  | .discard => []

/-- When a command may set N to 0 (R1, R14, R18): it is a power-on reset, SET_CLOCK or RESET_PART, or it carries one of these two on the
link: in the bytes gathered and those it brings, or as the paused command. -/
def mayZeroN (h : Hub) : Instr → Prop
  | .powerOnReset => True
  | .setClock _ body => zeroCommand 0x01 body
  | .resetPart _ body => zeroCommand 0x71 body
  | .outPacket bytes => carriesZero (h.link.gathered ++ bytes)
  | .dispatchResume =>
    (∃ c, h.link.paused = some c ∧ zeroCommand c.code c.body) ∨ carriesZero (h.link.gathered ++ h.link.behind)
  | _ => False

/-! ### Dispatch and replies -/

/-- A command that reaches the part now is dispatched: the link carries messages, no command is paused, an entry is free, and the entry
to be taken is not held already (R177). -/
structure Hub.Ready (h : Hub) : Prop where
  takes : h.takesMessages = true
  free : h.link.entriesHeld < Config.nEntries
  fresh : h.link.serial ∉ h.link.held

/-- The link after a command was dispatched and its reply became ready at once: one entry number more is used, and the reply waits. -/
def Link.replied (l : Link) (r : Reply) : Link := { l with serial := l.serial + 1, replies := l.replies ++ [r] }

/-- The hub after a command was dispatched and answered at once. -/
def Hub.replied (h : Hub) (r : Reply) : Hub := h.withLink (h.link.replied r)

/-- The outcome of a command that changes the hub to `h`; the waiting commands are not touched. -/
def State.becomes (s : State) (h : Hub) : Host.Outcome State Fault Refusal := .next { s with hub := h }

/-- The outcome of a command that is dispatched and answered at once: the hub becomes `h`, and the reply waits in its reply queue. -/
def State.answered (s : State) (h : Hub) (code : Byte) (tag : Tag) (st : Status) (fields : List Byte) :
    Host.Outcome State Fault Refusal :=
  s.becomes (h.replied ⟨code, tag, st, fields⟩)

/-- The row that a command code selects, with the tag and body of its message (R176, chapter 13). -/
def commandRow (code : Byte) (tag : Tag) (body : List Byte) : Instr :=
  match code.toNat with
  | 0x01 => .setClock tag body
  | 0x02 => .getClock tag body
  | 0x10 => .setClockOutput tag body
  | 0x11 => .getOutputs tag body
  | 0x12 => .setTally tag body
  | 0x13 => .runTally tag body
  | 0x14 => .stopTally tag body
  | 0x20 => .defineStream tag body
  | 0x21 => .armStream tag body
  | 0x22 => .triggerStream tag body
  | 0x23 => .stopStream tag body
  | 0x24 => .deleteStream tag body
  | 0x25 => .getStream tag body
  | 0x26 => .getPool tag body
  | 0x30 => .postCue tag body
  | 0x31 => .cancelCue tag body
  | 0x32 => .listCues tag body
  | 0x33 => .flushCues tag body
  | 0x40 => .configurePort tag body
  | 0x41 => .setInitList tag body
  | 0x42 => .startPort tag body
  | 0x43 => .stopPort tag body
  | 0x44 => .getPort tag body
  | 0x48 => .converterXfer tag body
  | 0x49 => .abortXfer tag body
  | 0x4A => .getControlBus tag body
  | 0x50 => .setNode tag body
  | 0x51 => .resetNode tag body
  | 0x52 => .surfaceWrite tag body
  | 0x53 => .getNode tag body
  | 0x58 => .setBinding tag body
  | 0x59 => .clearBinding tag body
  | 0x5A => .listBindings tag body
  | 0x60 => .setMeter tag body
  | 0x61 => .setMeterDisplay tag body
  | 0x62 => .readMeters tag body
  | 0x63 => .clearMeters tag body
  | 0x70 => .describe tag body
  | 0x71 => .resetPart tag body
  | _ => .unknownCommand code tag body

/-- The body lengths of chapter 13: a fixed length; a fixed length with a count byte at an offset and entries of a width; and
CONVERTER_XFER's, whose data bytes a WRITE alone carries. -/
inductive BodyShape where
  | fixed (length : Nat)
  | counted (length countAt width : Nat)
  | transfer
deriving DecidableEq, Repr, Inhabited

def BodyShape.holds (sh : BodyShape) (body : List Byte) : Prop :=
  match sh with
  | .fixed n => body.length = n
  | .counted n countAt width => n ≤ body.length ∧ body.length = n + byteAt body countAt * width
  | .transfer => 4 ≤ body.length ∧ body.length = if byteAt body 0 = 0 then 4 + byteAt body 2 else 4

/-- The body shape of each command code (R186); `none` for a code that names no command. -/
def shapeOf (code : Nat) : Option BodyShape :=
  match code with
  | 0x01 => some (.fixed 2)
  | 0x02 => some (.fixed 0)
  | 0x10 => some (.fixed 4)
  | 0x11 => some (.fixed 0)
  | 0x12 => some (.fixed 17)
  | 0x13 => some (.fixed 1)
  | 0x14 => some (.fixed 1)
  | 0x20 => some (.counted 22 21 4)
  | 0x21 => some (.fixed 1)
  | 0x22 => some (.fixed 1)
  | 0x23 => some (.fixed 1)
  | 0x24 => some (.fixed 1)
  | 0x25 => some (.fixed 1)
  | 0x26 => some (.fixed 0)
  | 0x30 => some (.fixed 25)
  | 0x31 => some (.fixed 2)
  | 0x32 => some (.fixed 0)
  | 0x33 => some (.fixed 0)
  | 0x40 => some (.fixed 5)
  | 0x41 => some (.counted 2 1 4)
  | 0x42 => some (.fixed 1)
  | 0x43 => some (.fixed 1)
  | 0x44 => some (.fixed 1)
  | 0x48 => some .transfer
  | 0x49 => some (.fixed 2)
  | 0x4A => some (.fixed 0)
  | 0x50 => some (.fixed 4)
  | 0x51 => some (.fixed 1)
  | 0x52 => some (.fixed 5)
  | 0x53 => some (.fixed 1)
  | 0x58 => some (.fixed 10)
  | 0x59 => some (.fixed 1)
  | 0x5A => some (.fixed 0)
  | 0x60 => some (.fixed 10)
  | 0x61 => some (.fixed 5)
  | 0x62 => some (.counted 1 0 1)
  | 0x63 => some (.counted 2 1 1)
  | 0x70 => some (.fixed 0)
  | 0x71 => some (.fixed 0)
  | _ => none

/-- A node address that is not one (R137). -/
def notNode (a : Nat) : Prop := a = 0 ∨ 16 < a

/-- An action of a cue with a parameter out of range (R90): its code and its eight parameter bytes. -/
def cueActionOut (code : Nat) (p : List Byte) : Prop :=
  match code with
  | 0 => 16 ≤ byteAt p 0
  | 1 => 16 ≤ byteAt p 0
  | 2 => 16 ≤ byteAt p 0 ∨ 1 < byteAt p 1
  | 3 => 127 < byteAt p 0 ∨ byteAt p 1 = 0 ∨ 4 < byteAt p 1
  | 4 => notNode (byteAt p 0) ∨ 63 < byteAt p 1 ∨
      ¬ (byteAt p 2 = 16 ∧ fieldAt p 3 2 ≤ 3 ∨ byteAt p 2 = 17 ∧ fieldAt p 3 2 ≤ 1023 ∨ byteAt p 2 = 18 ∧ fieldAt p 3 2 ≤ 32)
  | 5 => 4 ≤ byteAt p 0 ∨ 1 < byteAt p 1
  | 6 => 4 ≤ byteAt p 0 ∨ 1 < byteAt p 1
  | 7 => False
  | _ => True

/-- A descriptor in DEFINE_STREAM form with a value out of range (R33, R34 step 2). -/
def descriptorOut (b : List Byte) : Prop :=
  16 ≤ byteAt b 0 ∨ 1 < byteAt b 1 ∨ 2 < byteAt b 2 ∨ fieldAt b 3 2 ∉ [256, 512, 1024, 2048, 4096, 8192] ∨
    1 < byteAt b 10 ∨ byteAt b 10 = 1 ∧ fieldAt b 11 4 = 0 ∨ 15 < byteAt b 20 ∨ byteAt b 21 = 0 ∨ 16 < byteAt b 21 ∨
    (∃ k, k < byteAt b 21 ∧ (6 ≤ byteAt b (22 + 4 * k) ∨ 8 ≤ byteAt b (23 + 4 * k))) ∨
    byteAt b 1 = 0 ∧ (1 < byteAt b 7 ∨ byteAt b 7 = 1 ∧ (fieldAt b 8 2 = 0 ∨ 4096 < fieldAt b 8 2)) ∨
    byteAt b 1 = 1 ∧ (fieldAt b 5 2 ∉ [16, 32, 64, 128, 256, 512, 1024] ∨ fieldAt b 3 2 < 2 * fieldAt b 5 2 ∨
      fieldAt b 3 2 < 2 * fieldAt b 15 2 ∨ 1 < byteAt b 17 ∨
      byteAt b 17 = 1 ∧ (32 ≤ byteAt b 18 ∨ byteAt b 19 = 0 ∨ 92 < byteAt b 19))

/-- A list of meter numbers, `n` of them from an offset, that READ_METERS and CLEAR_METERS do not take (R173). -/
def metersOut (n : Nat) (b : List Byte) (off : Nat) : Prop := n = 0 ∨ 32 < n ∨ ∃ k, k < n ∧ 32 ≤ byteAt b (off + k)

/-- A body of the right length has a value that its command refuses BAD_VALUE, by the command's code (chapters 1 to 12; the places are
chapter 13's). -/
def valueOut (code : Nat) (b : List Byte) : Prop :=
  match code with
  | 0x01 => 2 < byteAt b 0 ∨ 5 < byteAt b 1
  | 0x10 => 4 ≤ byteAt b 0 ∨ 6 < byteAt b 1 ∨ 1 < byteAt b 2 ∨ 1 < byteAt b 3
  | 0x12 => 4 ≤ byteAt b 0 ∨ 1 < byteAt b 1 ∨ fieldAt b 8 4 = 0 ∨ 2 ^ 48 ≤ fieldAt b 2 6 + fieldAt b 8 4 ∨
      byteAt b 1 = 1 ∧ fieldAt b 12 4 ≤ fieldAt b 8 4 ∨ 1 < byteAt b 16
  | 0x13 => 4 ≤ byteAt b 0
  | 0x14 => 4 ≤ byteAt b 0
  | 0x20 => descriptorOut b
  | 0x21 => 16 ≤ byteAt b 0
  | 0x22 => 16 ≤ byteAt b 0
  | 0x23 => 16 ≤ byteAt b 0
  | 0x24 => 16 ≤ byteAt b 0
  | 0x25 => 16 ≤ byteAt b 0
  | 0x30 => fieldAt b 0 2 = 0 ∨ 1 < byteAt b 9 ∨ 1 < byteAt b 10 ∨ cueActionOut (byteAt b 8) (b.drop 17)
  | 0x31 => fieldAt b 0 2 = 0
  | 0x40 => 6 ≤ byteAt b 0 ∨ 2 < byteAt b 1 ∨ byteAt b 2 ∉ [2, 4, 8]
  | 0x41 => 6 ≤ byteAt b 0 ∨ 16 < byteAt b 1 ∨ ∃ k, k < byteAt b 1 ∧ (127 < byteAt b (2 + 4 * k) ∨ 1 < byteAt b (5 + 4 * k))
  | 0x42 => 6 ≤ byteAt b 0
  | 0x43 => 6 ≤ byteAt b 0
  | 0x44 => 6 ≤ byteAt b 0
  | 0x48 => 2 < byteAt b 0 ∨ 127 < byteAt b 1 ∨ byteAt b 0 ≤ 1 ∧ (byteAt b 2 = 0 ∨ 16 < byteAt b 2)
  | 0x50 => notNode (byteAt b 0) ∨ 1 < byteAt b 1 ∨ byteAt b 2 = 0 ∨ 7 < byteAt b 2 ∨ 1 < byteAt b 3
  | 0x51 => notNode (byteAt b 0)
  | 0x52 => notNode (byteAt b 0) ∨ 63 < byteAt b 1 ∨
      ¬ (byteAt b 2 = 16 ∧ fieldAt b 3 2 ≤ 3 ∨ byteAt b 2 = 17 ∧ fieldAt b 3 2 ≤ 1023 ∨ byteAt b 2 = 18 ∧ fieldAt b 3 2 ≤ 32)
  | 0x53 => notNode (byteAt b 0)
  | 0x58 => 32 ≤ byteAt b 0 ∨ notNode (byteAt b 1) ∨ 63 < byteAt b 2 ∨ 1 < byteAt b 3 ∨ 1 < byteAt b 4 ∨
      byteAt b 4 = 1 ∧ (notNode (byteAt b 5) ∨ 63 < byteAt b 6) ∨ 4 < byteAt b 7 ∨ byteAt b 7 ≤ 2 ∧ 16 ≤ byteAt b 8 ∨
      byteAt b 7 = 4 ∧ fieldAt b 8 2 = 0
  | 0x59 => 32 ≤ byteAt b 0
  | 0x60 => 32 ≤ byteAt b 0 ∨ 1 < byteAt b 1 ∨ byteAt b 1 = 1 ∧ (6 ≤ byteAt b 2 ∨ 8 ≤ byteAt b 3) ∨ byteAt b 5 = 0 ∨
      fieldAt b 6 3 = 0 ∨ 8388607 < fieldAt b 6 3 ∨ byteAt b 9 = 0 ∨ 8 < byteAt b 9
  | 0x61 => 32 ≤ byteAt b 0 ∨ 1 < byteAt b 1 ∨
      byteAt b 1 = 1 ∧ (notNode (byteAt b 2) ∨ 63 < byteAt b 3 ∨ byteAt b 4 = 0 ∨ 32 < byteAt b 4)
  | 0x62 => metersOut (byteAt b 0) b 1
  | 0x63 => 1 < byteAt b 0 ∨ byteAt b 0 = 0 ∧ metersOut (byteAt b 1) b 2
  | _ => False

/-! ### Conditions of single commands -/

/-- No defined stream is ARMED, RUNNING or DRAINING, and every port is OFF (R13). -/
def Hub.rateFree (h : Hub) : Prop :=
  (∀ st, some st ∈ h.engine.streams → st.state = .idle ∨ st.state = .halted) ∧ ∀ pt ∈ h.ports, pt.state = .off

/-- R26: the ranges of a tally unit's settings record; T is not held for ONESHOT. -/
def TallySettings.fits (c : TallySettings) : Prop :=
  1 ≤ c.width ∧ c.width < 4294967296 ∧ c.start + c.width < Config.positions ∧ c.period < 4294967296 ∧
    (c.mode = .oneshot → c.period = 0) ∧ (c.mode = .periodic → c.width < c.period)

/-- R33: the ranges of a descriptor, and which fields each direction holds. -/
def Descriptor.fits (d : Descriptor) : Prop :=
  1 ≤ d.map.length ∧ d.map.length ≤ 16 ∧ (∀ e ∈ d.map, e.port < 6 ∧ e.slot < 8) ∧ d.capacity ∈ capacities ∧ d.reload ≤ 15 ∧
    (match d.run with
      | .continuous => True
      | .counted l => 1 ≤ l ∧ l < 4294967296) ∧
    (match d.direction with
      | .play => d.block = none ∧ d.preRoll = none ∧ d.watch = none ∧ (d.fill = some .silence ∨
          ∃ l, d.fill = some (.hold l) ∧ 1 ≤ l ∧ l ≤ 4096)
      | .capture => d.fill = none ∧ (∃ b, d.block = some b ∧ b ∈ blockSizes ∧ b ≤ d.capacity / 2) ∧
          (∃ r, d.preRoll = some r ∧ r ≤ d.capacity / 2) ∧
          ∀ w, d.watch = some w → w.meter < 32 ∧ 1 ≤ w.threshold ∧ w.threshold ≤ 92)

/-- R35: entry k of a channel map passes its checks: the port's role is the direction's, the slot is below the slot count, and for PLAY the
slot is claimed by no stream and named by no earlier entry. -/
def Hub.mapEntryPasses (h : Hub) (d : Direction) (map : List PortSlot) (k : Nat) (e : PortSlot) : Prop :=
  ∃ pt, h.port e.port = some pt ∧ e.slot < pt.slots ∧
    (match d with
      | .play => pt.role = .playback ∧ (∀ c ∈ h.engine.claims, c.place ≠ e) ∧ e ∉ map.take k
      | .capture => pt.role = .capture)

/-- R36: `need` pages from `first` are all free. -/
def StreamEngine.freeRun (e : StreamEngine) (first need : Nat) : Prop := ∀ k, k < need → e.pages[first + k]? = some none

/-- R90: the ranges of a cue entry's action. -/
def CueAction.fits : CueAction → Prop
  | .streamTrigger i => i < 16
  | .streamStop i => i < 16
  | .streamMute i _ => i < 16
  | .converterWrite a data => a ≤ 127 ∧ 1 ≤ data.length ∧ data.length ≤ 4
  | .surfaceWrite n c k v => 1 ≤ n ∧ n ≤ 16 ∧ c ≤ 63 ∧ v ≤ k.limit
  | .clockOutput o _ => o < 4
  | .tallyRun u => u < 4
  | .tallyStop u => u < 4
  | .clearClips => True

/-- R90: the ranges of a cue entry. -/
def CueEntry.fits (e : CueEntry) : Prop :=
  1 ≤ e.tag ∧ e.tag < 65536 ∧ e.due < Config.positions ∧ e.interval < 4294967296 ∧ e.repeats < 65536 ∧
    (e.interval = 0 → e.repeats = 0) ∧ e.action.fits

/-- R160: the ranges of a control's place, and of a binding. -/
def ControlRef.fits (c : ControlRef) : Prop := 1 ≤ c.node ∧ c.node ≤ 16 ∧ c.control ≤ 63

def BindingAction.fits : BindingAction → Prop
  | .streamTrigger i => i < 16
  | .streamStop i => i < 16
  | .streamMuteToggle i => i < 16
  | .clearClips => True
  | .cueFire tag => 1 ≤ tag ∧ tag < 65536

def Binding.fits (b : Binding) : Prop := b.key.fits ∧ (∀ q, b.qualifier = some q → q.fits) ∧ b.action.fits

/-- A binding's key and edge are those of a BUTTON event of a control (R161). -/
def Binding.meets (b : Binding) (node control : Nat) (pressed : Bool) : Prop :=
  b.key = ⟨node, control⟩ ∧ b.edge = if pressed then .press else .release

/-- A binding fires on a BUTTON event: its key and edge are the event's, and its qualifier's control, if it has one, is recorded as pressed (R161). -/
def Binding.fires (b : Binding) (h : Hub) (node control : Nat) (value : Int) : Prop :=
  b.key = ⟨node, control⟩ ∧ (b.edge = .press ∧ value = 1 ∨ b.edge = .release ∧ value = 0) ∧
    ∀ q, b.qualifier = some q → ∃ n, h.node q.node = some n ∧ q.control ∈ n.pressed

/-- The part has sent POLL to node `a` and awaits its answer (R140). -/
def Hub.polls (h : Hub) (a : Nat) : Prop :=
  h.surface.exchange = some { node := a, kind := .poll, discarded := false, forCommand := false, stamp := none } ∧
    h.surface.lastSent = packetOf packetPoll a []

/-- The meters when a node has left ONLINE: the last posted value of every display on it is absent (R169). -/
def displaysForget (a : Nat) (meters : List Meter) : List Meter :=
  meters.map (fun m => if m.display.any (fun d => decide (d.node = a)) then { m with posted := none } else m)

/-- The command that ends an exchange of a kind with an answer. -/
def ExchangeKind.ends : ExchangeKind → LineAnswer → Instr
  | .reset => Instr.resetExchangeEnd
  | .write => Instr.writeExchangeEnd
  | .poll => Instr.pollExchangeEnd
  | .probe => Instr.probeEnd
  | .resetVisit => Instr.resetVisitEnd

/-- The errors of an exchange (R136): timeout, framing, check-nibble, CRC and protocol errors. -/
def LineOutcome.isError (o : LineOutcome) : Prop :=
  o = .timeout ∨ o = .framingError ∨ o = .nibbleError ∨ o = .crcError ∨ o = .protocolError

/-- A packet's characters as a node sends them without fault, and nothing after them. -/
def cleanAnswer (bytes : List Byte) : LineAnswer :=
  { chars := bytes.map (fun b => ⟨b, true, false⟩), startAfter := false, neverIdle := false }

/-- No cue of the list is due at the frame that the next boundary begins. -/
def Hub.noCueDue (h : Hub) : Prop := ∀ e ∈ h.cues, e.due ≠ h.clock.n

/-- The part is out of reset and no crystal switch is in progress, so a frame boundary may occur (R3, R183). -/
def Hub.framesRun (h : Hub) : Prop := h.resetN = true ∧ h.clock.switching = false

/-! ### Conditions that always hold -/

/-- R180: at most 32 notices, and never two of one coalescing key. -/
def Link.noticesFit (l : Link) : Prop :=
  l.notices.length ≤ Config.noticeCapacity ∧ (l.notices.filterMap (fun w => w.body.key)).Nodup

/-- R177: at most 16 entries are held; entry numbers held are distinct and below the next one. -/
def Link.entriesFit (l : Link) : Prop :=
  l.entriesHeld ≤ Config.nEntries ∧ l.held.Nodup ∧ ∀ e ∈ l.held, e < l.serial

/-- R91: at most 64 entries, in order of due position, no tag twice, none due before N. -/
def Hub.cuesFit (h : Hub) : Prop :=
  h.cues.length ≤ Config.cueCapacity ∧ h.cues.Pairwise (fun a b => a.due ≤ b.due) ∧ (h.cues.map CueEntry.tag).Nodup ∧
    ∀ e ∈ h.cues, h.clock.n ≤ e.due

/-- R124 to R126, R133: at most 8 jobs wait, jobs wait only behind an active job or a release, and a waiting job has not begun. -/
def ControlBus.fits (b : ControlBus) : Prop :=
  b.waiting.length ≤ Config.busWaiting ∧ (b.active = none → b.releasing = false → b.waiting = []) ∧
    (b.releasing = true → b.active = none) ∧ ∀ j ∈ b.waiting, j.ending = false ∧ j.recovery = false ∧ j.done = 0

/-- R137, R138, R144, R151, R153: a node that is not ONLINE has an empty queue and no control touched or pressed; an ONLINE node still tolerates
a failure; a queue holds at most 32 settings, no key twice; the controls touched, and those pressed, stand in ascending order, none twice. -/
def Node.fits (n : Node) : Prop :=
  (n.state ≠ .online → n.queue = [] ∧ n.touched = [] ∧ n.pressed = []) ∧
    (n.state = .online → 1 ≤ n.allowance ∧ n.allowance ≤ n.reload) ∧ 1 ≤ n.reload ∧ n.reload ≤ 7 ∧ n.rounds ≤ 16 ∧
    n.queue.length ≤ Config.queueCapacity ∧ n.queue.Pairwise (fun a b => ¬ (a.control = b.control ∧ a.kind = b.kind)) ∧
    n.touched.Pairwise (· < ·) ∧ n.pressed.Pairwise (· < ·)

/-- The state of the node that an exchange in progress is made with (R139, R140). -/
def ExchangeKind.nodeState : ExchangeKind → NodeState
  | .reset => .online
  | .write => .online
  | .poll => .online
  | .probe => .offline
  | .resetVisit => .halted

/-- The surface: every node record fits, and an exchange that is not discarded is made with a node in the state its visit needs. -/
def Hub.surfaceFits (h : Hub) : Prop :=
  (∀ n ∈ h.surface.nodes, n.fits) ∧
    ∀ x, h.surface.exchange = some x → x.discarded = false → ∃ n, h.node x.node = some n ∧ n.state = x.kind.nodeState

/-- R164: a meter's fields lie in their ranges, and its hold counter never exceeds its H. -/
def Meter.fits (m : Meter) : Prop :=
  m.d16 ≤ 1472 ∧ m.holdCount ≤ m.hold ∧ m.hold ≤ 255 ∧ 1 ≤ m.decay ∧ m.decay ≤ 255 ∧ 1 ≤ m.threshold ∧ m.threshold ≤ 8388607 ∧
    1 ≤ m.clipRun ∧ m.clipRun ≤ 8 ∧ m.maxIndex ≤ 92 ∧ m.run ≤ m.clipRun ∧ m.peak ≤ 8388607

/-- R43: a stream's allowance never exceeds its reload, and with a nonzero reload it is HALTED exactly when its allowance is 0. -/
def Stream.allowanceFits (st : Stream) : Prop :=
  st.allowance ≤ st.desc.reload ∧ (st.desc.reload ≠ 0 → (st.state = .halted ↔ st.allowance = 0))

def StreamEngine.allowancesFit (e : StreamEngine) : Prop := ∀ st, some st ∈ e.streams → st.allowanceFits

/-- R35: no playback slot is claimed twice. -/
def StreamEngine.claimsFit (e : StreamEngine) : Prop := (e.claims.map Claim.place).Nodup

/-- R36: every stream's pages are one run inside the pool, and the page map gives each page of a run, and no other page, to its stream. -/
def Hub.pagesFit (h : Hub) : Prop :=
  (∀ i st, h.stream i = some st → st.firstPage + st.pageCount ≤ Config.poolPages) ∧
    ∀ p i, h.engine.pages[p]? = some (some i) ↔ ∃ st, h.stream i = some st ∧ st.firstPage ≤ p ∧ p < st.firstPage + st.pageCount

/-- R50: every written frame of an ARMED or RUNNING PLAY stream has a position in the window [N, N + C), and stands in that position's slot. -/
def Hub.windowFits (h : Hub) : Prop :=
  ∀ i st, h.stream i = some st → st.desc.direction = .play → (st.state = .armed ∨ st.state = .running) →
    ∀ c ∈ st.written, h.clock.n ≤ c.2 ∧ c.2 < h.clock.n + st.desc.capacity ∧ c.1 = c.2 % st.desc.capacity

/-- R79: in RUNNING, Dp ≤ N and N − Dp ≤ C; in DRAINING, Dp ≤ E. -/
def Stream.deliveryFits (st : Stream) (n : Nat) : Prop :=
  (st.state = .running → ∃ d, st.dp = some d ∧ d ≤ n ∧ n ≤ d + st.desc.capacity) ∧
    (st.state = .draining → ∃ d e, st.dp = some d ∧ st.stop = some e ∧ d ≤ e)

/-- The positions that a capture take starts from are not ahead of N: Dp (R79), the arm position of an ARMED stream (R39), and the stamp of a
report that is still to be accepted (R155). -/
def Hub.deliveryFits (h : Hub) : Prop :=
  (∀ i st, h.stream i = some st → st.desc.direction = .capture →
      st.deliveryFits h.clock.n ∧ (st.state = .armed → ∃ a, st.arm = some a ∧ a ≤ h.clock.n)) ∧
    ∀ x, h.surface.exchange = some x → ∀ t, x.stamp = some t → t ≤ h.clock.n

/-- R78, R82: the blocks that stream `i` offers when N = n: in RUNNING the block of B frames at Dp once its last frame is written; in DRAINING the
block at Dp, which is FINAL when it ends at E. -/
def Stream.offersBlock (st : Stream) (i n : Nat) (o : Offer) : Prop :=
  st.desc.direction = .capture ∧ ∃ d b, st.dp = some d ∧ st.desc.block = some b ∧
    (st.state = .running ∧ d + b ≤ n ∧ o = ⟨i, d, b, false⟩ ∨
      st.state = .draining ∧ ∃ e, st.stop = some e ∧ (b < e - d ∧ o = ⟨i, d, b, false⟩ ∨ e - d ≤ b ∧ o = ⟨i, d, e - d, true⟩))

/-- R33: every stream's descriptor is in range. -/
def Hub.descriptorsFit (h : Hub) : Prop := ∀ i st, h.stream i = some st → st.desc.fits

/-- R2: a correction lies in the pull range, 1 − 1,000 ppm to 1 + 1,000 ppm. -/
def withinPull (r : Ratio) : Prop :=
  0 < r.den ∧ 999 * (r.den : Int) ≤ 1000 * r.num ∧ 1000 * r.num ≤ 1001 * (r.den : Int)

/-- R2: the held correction and the steered correction are within the pull range. -/
def MediaClock.correctionFits (c : MediaClock) : Prop := withinPull c.held ∧ withinPull c.steered

/-- The tables have their fixed sizes (R182). -/
def Hub.tablesFit (h : Hub) : Prop :=
  h.engine.streams.length = Config.nStreams ∧ h.engine.pages.length = Config.poolPages ∧ h.ports.length = Config.nPorts ∧
    h.outputs.outs.length = Config.nOutputs ∧ h.tallies.length = Config.nTallies ∧ h.surface.nodes.length = Config.nNodes ∧
    h.surface.bindings.length = Config.nBindings ∧ h.meters.length = Config.nMeters

end Sys2Proof.Machine
end

