-- ==== Sys2Proof/Certificates/Slice0/Obligations.lean ====
section
/-! DEFINITION. The statements for the provers, one `def Obligations.<Name> : Prop` each. `Hub.Ready` is the condition on the link
under which a command is dispatched now (R177); `State.answered` is the outcome of a command answered at once (R176). -/

open Sys2Proof Sys2Proof.Machine

/-! ### The queue, resets and link events -/

/-- The command at the front of the queue is run on the hub with the rest of the queue. On an empty queue nothing changes, which is the
model's own choice (assumption log, 2). -/
def Obligations.StepTakesTheFrontCommand : Prop :=
  (∀ (c : Instr) (rest : List Instr) (h : Hub), step ⟨h, c :: rest⟩ = exec c ⟨h, rest⟩) ∧
    ∀ h : Hub, step ⟨h, []⟩ = .next ⟨h, []⟩

/-- POWER_ON_RESET gives every block its reset values with RESET_N low, and RESET_N_RELEASE lets RESET_N high and changes nothing
else (R183, R154); both leave the model's count of free values alone. RESET_PART sets every block to its reset values at acceptance, but for a
waveform, a wire frame, a job or a message that goes on to its end (R24, R25, R108, R133, R183); the Link Interface keeps its mark and its assembly,
empties its queues and frees every entry, and the reply to RESET_PART is then the only one waiting. A job on the bus becomes the one whose
ending is the release, and a packet being sent on the surface bus is cut after a whole character.
Model's choices: the reset values that the manual does not give (assumption log, 21), the switching of the crystal that RESET_PART begins or
keeps (26), what goes on over it (37), the pool's contents (20), where the packet is cut, a free value (53), and that no frame boundary has come yet from which a
waiting WORD output counts the frame period (17). -/
def Obligations.PartResets : Prop :=
  ∀ s : State,
    exec .powerOnReset s = s.becomes { Hub.reset with draws := s.hub.draws } ∧
      exec .resetNRelease s = s.becomes { s.hub with resetN := true } ∧
      ∀ tag : Tag, s.hub.Ready → ∃ h : Hub, exec (.resetPart tag []) s = s.becomes h ∧
        h.clock = { MediaClock.reset with switching := h.clock.switching } ∧
        (h.clock.switching = true ↔ s.hub.clock.switching = true ∨ s.hub.clock.rate.family = .xa) ∧
        (∀ i o, s.hub.out i = some o → ∃ o', h.out i = some o' ∧ o'.choice = .off ∧ o'.inv = false ∧ o'.enable = false ∧ o'.staged = none ∧
          o'.period = o.period ∧ (o.period = none → o'.state = .quiet ∧ o'.change = .none) ∧
          (o.period ≠ none → o'.state = .closing ∧ o'.elapsed = o.elapsed ∧ o'.change ≠ .none ∧
            (o'.change = .across ↔ o.change = .across ∨ s.hub.clock.rate.family = .xa))) ∧
        h.outputs.zeroNext = true ∧ h.outputs.sinceFrame = none ∧ h.tallies = List.replicate 4 Tally.reset ∧
        h.engine = { StreamEngine.reset with pool := s.hub.engine.pool } ∧ h.cues = [] ∧
        h.ports = s.hub.ports.map (fun pt => { Port.reset with clocked := pt.clocked, sdOut := pt.sdOut }) ∧
        h.bus = { ControlBus.reset with release := h.bus.release, lastWire := s.hub.bus.lastWire } ∧
        (h.bus.releasing = true ↔ s.hub.bus.releasing = true ∨ s.hub.bus.active ≠ none) ∧
        (∀ j, s.hub.bus.active = some j → h.bus.release = some { j with ending := true }) ∧
        (s.hub.bus.active = none → h.bus.release = s.hub.bus.release) ∧
        h.surface = { Surface.reset with lastSent := h.surface.lastSent } ∧
        (∃ k, 1 ≤ k ∧ h.surface.lastSent = s.hub.surface.lastSent.take k) ∧
        (∀ x t, s.hub.surface.exchange = some x → x.stamp = some t → h.surface.lastSent = s.hub.surface.lastSent) ∧
        h.draws = s.hub.draws + 1 ∧ h.meters = List.replicate 32 Meter.reset ∧
        h.link = { s.hub.link with
          held := [], replies := [⟨0x71, tag, .ok, []⟩], notices := [], lost := false, count := 0, serial := s.hub.link.serial + 1 }

/-- R184, R178: the end of a sending frees the pipe; a link reset empties the queues, the assembly and the held entries, and keeps the
link-frame mark; a configuration, or a resume that ends a suspend of a configured link, configures the link. Nothing outside the Link
Interface changes. Model's choice: a suspend is remembered over a second one, and a configuration forgets it (assumption log, 38).
R180, R181: a notice posted whose kind has no key, or whose key no waiting notice has, joins the queue at its end, or is dropped and sets LOST
when 32 wait; one whose key waits updates that notice in its place, and no other. The merged fields are those of R180's table. -/
def Obligations.LinkEvents : Prop :=
  (∀ (l : Link) (n : Nat) (b : NoticeBody),
    l.post n b = { l with notices := (l.post n b).notices, lost := (l.post n b).lost } ∧
    (((b.key = none ∨ ∀ w ∈ l.notices, w.body.key ≠ b.key) → l.notices.length < 32 →
      (l.post n b).notices = l.notices ++ [⟨n, b⟩] ∧ (l.post n b).lost = l.lost) ∧
     ((b.key = none ∨ ∀ w ∈ l.notices, w.body.key ≠ b.key) → 32 ≤ l.notices.length →
      (l.post n b).notices = l.notices ∧ (l.post n b).lost = true)) ∧
    ∀ (front rear : List Notice) (w : Notice), l.notices = front ++ w :: rear → b.key ≠ none → w.body.key = b.key →
      (∀ v ∈ front ++ rear, v.body.key ≠ b.key) → ∃ m, (l.post n b).notices = front ++ ⟨n, m⟩ :: rear ∧ (l.post n b).lost = l.lost ∧
        (∀ i p t q u, w.body = .streamGap i p t → b = .streamGap i q u → m = .streamGap i p (min (t + u) 4294967295)) ∧
        (∀ i r p f q u, w.body = .blockRefused i r p f → b = .blockRefused i r q u → m = .blockRefused i r q (min (f + u) 4294967295)) ∧
        (∀ a c v x d v' y e, w.body = .surfaceEvent a c .encoder v x d → b = .surfaceEvent a c .encoder v' y e →
          m = .surfaceEvent a c .encoder (max (-127) (min 127 (v + v'))) y e) ∧
        ((∀ i p t, b ≠ .streamGap i p t) → (∀ i r p f, b ≠ .blockRefused i r p f) → (∀ a c v x d, b ≠ .surfaceEvent a c .encoder v x d) →
          m = b)) ∧
  ∀ s : State, s.hub.resetN = true →
    exec .messageSent s = s.becomes (s.hub.withLink { s.hub.link with sending := none }) ∧
      exec .configuration s = s.becomes (s.hub.withLink { s.hub.link with configured := true, suspended := false }) ∧
      exec .resume s = s.becomes (s.hub.withLink (if s.hub.link.suspended then
        { s.hub.link with configured := true, suspended := false } else s.hub.link)) ∧
      ∀ cause, ∃ l : Link, exec (.linkReset cause) s = s.becomes (s.hub.withLink l) ∧
        l.configured = false ∧ l.mark = s.hub.link.mark ∧ l.held = [] ∧ l.replies = [] ∧ l.notices = [] ∧ l.lost = false ∧
        l.count = 0 ∧ l.sending = none ∧ l.assembly = .gather [] ∧ l.paused = none ∧ l.behind = [] ∧
        (l.suspended = true ↔ cause = .suspend ∧ (s.hub.link.configured = true ∨ s.hub.link.suspended = true))

/-! ### Chapter 1: the Media Clock -/

/-- R12 to R15: an accepted rate change sets N to 0, takes source and rate, enters INTERNAL or ACQUIRING afresh, keeps the held
correction within a family, empties the cue queue, stops every tally unit, abandons every meter period, and posts CUE_FLUSHED and then
CLOCK_STATE, both stamped 0. R24, R155: each output with a period in progress goes on with it and marks the change, ACROSS from a change across
families on; a report whose last character has been received is stamped 0. The order of the two notices is the model's choice (assumption log, 25), and so is the memory of a crystal
switch in progress: switching holds exactly if it held before or the family changes (26); a port's wire frame in progress is left alone (55); of two changes within one
period of an output the period counts as met by one across families when either was (18); and no frame boundary has come yet from which a waiting WORD output
counts the frame period, so that it waits for the nominal one (17).
Otherwise: R12, R13: a rate change is refused BUSY while a stream or a port blocks it; the same source and rate change nothing; a new source at
the same rate keeps N and the rate, decides the state afresh, and posts CLOCK_STATE with the reason SOURCE_CHANGED. -/
def Obligations.SetClock : Prop :=
  (∀ (s : State) (tag : Tag) (src : Source) (rate : Rate), s.hub.Ready → rate ≠ s.hub.clock.rate → s.hub.rateFree →
     ∃ h : Hub, exec (.setClock tag [oneByte src.code, oneByte rate.code]) s = s.becomes h ∧
       h.clock.n = 0 ∧ h.clock.source = src ∧ h.clock.rate = rate ∧
       h.clock.state = (if src = .internal then .internal else .acquiring) ∧
       h.clock.detected = (if src = .wordIn then none else some rate) ∧
       h.clock.held = (if rate.family = s.hub.clock.rate.family then s.hub.clock.held else nominal) ∧
       h.clock.lockRun = 0 ∧ h.clock.matched = false ∧ h.clock.measurement = none ∧
       h.clock.timer = (if src = .internal then none else some 0) ∧
       (h.clock.switching = true ↔ s.hub.clock.switching = true ∨ rate.family ≠ s.hub.clock.rate.family) ∧
       h.cues = [] ∧ h.tallies = s.hub.tallies.map Tally.halt ∧
       h.meters = s.hub.meters.map (fun m => { m with peak := 0 }) ∧
       h.outputs = { s.hub.outputs with
         outs := h.outputs.outs, zeroNext := h.outputs.zeroNext, switchPending := h.outputs.switchPending, sinceFrame := none } ∧
       (h.outputs.zeroNext = true ↔ s.hub.outputs.zeroNext = true ∨ rate.family ≠ s.hub.clock.rate.family) ∧
       (h.outputs.switchPending = true ↔ s.hub.outputs.switchPending = true ∨ rate.family ≠ s.hub.clock.rate.family) ∧
       h.outputs.outs.length = s.hub.outputs.outs.length ∧
       (∀ i o, s.hub.out i = some o → ∃ o', h.out i = some o' ∧ o' = { o with change := o'.change } ∧
         (o.period = none → o'.change = o.change) ∧
         (o.period ≠ none → o'.change ≠ .none ∧ (o'.change = .across ↔ o.change = .across ∨ rate.family ≠ s.hub.clock.rate.family))) ∧
       h.surface = { s.hub.surface with exchange := h.surface.exchange } ∧ (s.hub.surface.exchange = none → h.surface.exchange = none) ∧
       (∀ x, s.hub.surface.exchange = some x → (x.stamp = none → h.surface.exchange = some x) ∧
         ∀ t, x.stamp = some t → h.surface.exchange = some { x with stamp := some 0 }) ∧
       h.engine = s.hub.engine ∧ h.ports = s.hub.ports ∧ h.bus = s.hub.bus ∧
       h.link = ((s.hub.link.post 0 (.cueFlushed s.hub.cues.length .rateChange)).post 0
         (.clockState h.clock.state src rate h.clock.detected .sourceChanged)).replied ⟨0x01, tag, .ok, []⟩ ∧
       Hub.Within [.clock, .outputs, .tallies, .cues, .surface, .meters, .draws, .link, .linkState] s.hub h) ∧
  (∀ (s : State) (tag : Tag) (src : Source) (rate : Rate), s.hub.Ready →
     (rate ≠ s.hub.clock.rate → ¬ s.hub.rateFree →
       exec (.setClock tag [oneByte src.code, oneByte rate.code]) s = s.answered s.hub 0x01 tag .busy []) ∧
     (rate = s.hub.clock.rate → src = s.hub.clock.source →
       exec (.setClock tag [oneByte src.code, oneByte rate.code]) s = s.answered s.hub 0x01 tag .ok []) ∧
     (rate = s.hub.clock.rate → src ≠ s.hub.clock.source →
       ∃ h : Hub, exec (.setClock tag [oneByte src.code, oneByte rate.code]) s = s.becomes h ∧
         h.clock.n = s.hub.clock.n ∧ h.clock.source = src ∧ h.clock.rate = rate ∧
         h.clock.held = s.hub.clock.held ∧ h.clock.state = (if src = .internal then .internal else .acquiring) ∧
         h.clock.detected = (if src = .wordIn then none else some rate) ∧ h.clock.lockRun = 0 ∧
         h.clock.matched = false ∧ h.clock.measurement = none ∧
         h.clock.timer = (if src = .internal then none else some 0) ∧
         h.link = (s.hub.link.post s.hub.clock.n
           (.clockState h.clock.state src rate h.clock.detected .sourceChanged)).replied ⟨0x01, tag, .ok, []⟩ ∧
         Hub.Within [.clock, .draws, .link, .linkState] s.hub h))

/-- R4, R6, R7: a WCKI edge while the source is not WORD_IN changes nothing. With WORD_IN, an edge that does not end a measurement moves the
lock run in ACQUIRING, and makes the state LOCKED when it completes the lock run with a matching measurement recorded; it is counted
in the measurement, and starts one when none is in progress. R9: with the measurement goes the sum of the corrections in force over its window, each weighted by
the XB cycles counted under it; an edge that starts a measurement starts it at 0. Model's choice: that this is what the held correction is taken from (assumption
log, 10).
R7: the reference event at which the lock run stands at 64, with the source LINK_FRAME or a matching measurement recorded, makes ACQUIRING
LOCKED and posts CLOCK_STATE with the reason LOCKED. The edge does not also end a measurement: what one that does both comes to is the model's choice (12) and is
not stated. -/
def Obligations.ReferenceEdges : Prop :=
  (∀ (s : State) (phase : Ratio) (cycles : Nat),
     (s.hub.clock.source ≠ .wordIn → exec (.wckiEdge phase cycles) s = .next s) ∧
     (s.hub.resetN = true → s.hub.clock.source = .wordIn → s.hub.measurementDue = false →
       ∃ h : Hub, exec (.wckiEdge phase cycles) s = s.becomes h ∧
         Hub.Within [.clock, .draws, .link] s.hub h ∧ h.clock.n = s.hub.clock.n ∧ h.clock.held = s.hub.clock.held ∧
         h.clock.rate = s.hub.clock.rate ∧ h.clock.source = .wordIn ∧ h.clock.detected = s.hub.clock.detected ∧
         h.clock.measurement = some (match s.hub.clock.measurement with
           | none => ⟨0, 0⟩
           | some m => ⟨m.edges + 1, m.count + cycles⟩) ∧
         h.clock.window = (match s.hub.clock.measurement with
           | none => ⟨0, 1⟩
           | some _ => ratioPlus s.hub.clock.window (ratioTimes s.hub.clock.inForce cycles)) ∧
         h.clock.lockRun = (if s.hub.clock.state = .acquiring then
           (if withinBound phase then min 64 (s.hub.clock.lockRun + 1) else 0) else s.hub.clock.lockRun) ∧
         ((s.hub.clock.state = .acquiring ∧ h.clock.lockRun = 64 ∧ s.hub.clock.matched = true) →
           h.clock.state = .locked ∧ h.clock.timer = none ∧
             h.link = s.hub.link.post s.hub.clock.n
               (.clockState .locked .wordIn s.hub.clock.rate s.hub.clock.detected .locked)) ∧
         (¬ (s.hub.clock.state = .acquiring ∧ h.clock.lockRun = 64 ∧ s.hub.clock.matched = true) →
           h.clock.state = s.hub.clock.state ∧ h.clock.timer = s.hub.clock.timer ∧ h.link = s.hub.link))) ∧
  (∀ (s : State) (ev : RefEvent), s.hub.resetN = true → s.hub.lockDue ev = true → s.hub.measurementDue = false →
     ∃ h : Hub, exec (.acquireLock ev) s = s.becomes h ∧ h.clock.state = .locked ∧
       h.clock.lockRun = 64 ∧ h.clock.timer = none ∧ h.clock.n = s.hub.clock.n ∧ h.clock.rate = s.hub.clock.rate ∧
       h.clock.held = s.hub.clock.held ∧ h.clock.detected = s.hub.clock.detected ∧
       h.link.notices = (s.hub.link.post s.hub.clock.n (.clockState .locked s.hub.clock.source s.hub.clock.rate
         s.hub.clock.detected .locked)).notices ∧
       Hub.Within [.clock, .draws, .link, .linkState] s.hub h)

/-- R6, R7, R9, R10: the edge that ends a measurement sets the detected rate from the count and starts the next measurement. A matching
count sets the record in ACQUIRING, records a correction in LOCKED, and leads from HOLDOVER to ACQUIRING; any other count leads from
ACQUIRING (RATE_MISMATCH) and LOCKED (REFERENCE_LOST) to HOLDOVER. A match that finds the lock run at 64 locks. The edge is not itself the one
that completes the lock (the second clause). The correction recorded is the mean over the window of the corrections in force, which lies in the
pull range. In ACQUIRING the held correction is kept. Model's choices: a window that does not match records none in LOCKED (assumption log, 13), nor does the
window that locks (54), how the mean is taken (10), and that the ends of R6's windows are those of its formula, exactly, and not of its table, which differ at
the count 70,975 (67). -/
def Obligations.RateMeasurementComplete : Prop :=
  ∀ (s : State) (phase : Ratio) (cycles : Nat) (m : Measurement), s.hub.resetN = true → s.hub.clock.source = .wordIn →
    s.hub.clock.measurement = some m → 255 ≤ m.edges → s.hub.lockDue (.wcki phase cycles) = false →
    ∃ h : Hub, exec (.rateMeasurementComplete phase cycles) s = s.becomes h ∧
      Hub.Within [.clock, .draws, .link] s.hub h ∧ h.clock.n = s.hub.clock.n ∧ h.clock.rate = s.hub.clock.rate ∧
      h.clock.measurement = some ⟨0, 0⟩ ∧
      (∀ r : Rate, h.clock.detected = some r ↔
        995 * (256 * 24576000) ≤ 1000 * ((m.count + cycles) * r.hz) ∧ 1000 * ((m.count + cycles) * r.hz) ≤ 1005 * (256 * 24576000)) ∧
      (s.hub.clock.state = .internal → h.clock.state = .internal ∧ h.link = s.hub.link) ∧
      (h.clock.detected = some s.hub.clock.rate →
        (s.hub.clock.state = .acquiring → h.clock.matched = true ∧ h.clock.held = s.hub.clock.held ∧
          (h.clock.lockRun = 64 → h.clock.state = .locked ∧ h.link = s.hub.link.post s.hub.clock.n
            (.clockState .locked .wordIn s.hub.clock.rate h.clock.detected .locked)) ∧
          (h.clock.lockRun ≠ 64 → h.clock.state = .acquiring ∧ h.link = s.hub.link) ∧
          h.clock.lockRun = (if withinBound phase then min 64 (s.hub.clock.lockRun + 1) else 0)) ∧
        (s.hub.clock.state = .locked → h.clock.state = .locked ∧ withinPull h.clock.held ∧ h.link = s.hub.link ∧
          ∀ mean, mean = ratioOver (ratioPlus s.hub.clock.window (ratioTimes s.hub.clock.inForce cycles)) (m.count + cycles) →
            withinPull mean → h.clock.held = mean) ∧
        (s.hub.clock.state = .holdover →
          h.clock.state = .acquiring ∧ h.clock.matched = true ∧ h.clock.lockRun = 0 ∧ h.clock.timer = some 0 ∧
            h.link = s.hub.link.post s.hub.clock.n
              (.clockState .acquiring .wordIn s.hub.clock.rate h.clock.detected .sourceChanged))) ∧
      (h.clock.detected ≠ some s.hub.clock.rate →
        h.clock.held = s.hub.clock.held ∧
        (s.hub.clock.state = .acquiring →
          h.clock.state = .holdover ∧ h.link = s.hub.link.post s.hub.clock.n
            (.clockState .holdover .wordIn s.hub.clock.rate h.clock.detected .rateMismatch)) ∧
        (s.hub.clock.state = .locked →
          h.clock.state = .holdover ∧ h.link = s.hub.link.post s.hub.clock.n
            (.clockState .holdover .wordIn s.hub.clock.rate h.clock.detected .referenceLost)) ∧
        (s.hub.clock.state = .holdover → h.clock.state = .holdover ∧ h.link = s.hub.link))

/-- R6 to R10: without reference events for as long as the state allows, ACQUIRING (NO_REFERENCE) and LOCKED (REFERENCE_LOST) become HOLDOVER
at the held correction; a measurement in progress is abandoned and, with WORD_IN, the detected rate becomes UNKNOWN. When the
acquisition timer reaches 2,000 ms in ACQUIRING, ACQUIRE_TIMEOUT is posted, once. -/
def Obligations.ClockTimeouts : Prop :=
  ∀ s : State, s.hub.resetN = true →
    (s.hub.clock.source ≠ .internal →
      ∃ h : Hub, exec .referenceTimeout s = s.becomes h ∧ Hub.Within [.clock, .link] s.hub h ∧
        h.clock.n = s.hub.clock.n ∧ h.clock.rate = s.hub.clock.rate ∧ h.clock.held = s.hub.clock.held ∧
        (s.hub.clock.state ≠ .internal → s.hub.clock.source = .wordIn →
          h.clock.detected = none ∧ h.clock.measurement = none) ∧
        (s.hub.clock.state = .acquiring → h.clock.state = .holdover ∧ h.clock.inForce = s.hub.clock.held ∧
          h.link = s.hub.link.post s.hub.clock.n
            (.clockState .holdover s.hub.clock.source s.hub.clock.rate h.clock.detected .noReference)) ∧
        (s.hub.clock.state = .locked → h.clock.state = .holdover ∧ h.clock.inForce = s.hub.clock.held ∧
          h.link = s.hub.link.post s.hub.clock.n
            (.clockState .holdover s.hub.clock.source s.hub.clock.rate h.clock.detected .referenceLost)) ∧
        (s.hub.clock.state = .holdover → h.clock.state = .holdover ∧ h.clock.refRun = 0 ∧ h.link = s.hub.link)) ∧
    (∀ ms, s.hub.clock.timer = some ms →
      (s.hub.clock.state = .acquiring → ms < 2000 →
        exec .acquireTimeout s = s.becomes ((s.hub.withClock { s.hub.clock with timer := some 2000 }).withLink
          (s.hub.link.post s.hub.clock.n (.clockState .acquiring s.hub.clock.source s.hub.clock.rate s.hub.clock.detected
            .acquireTimeout)))) ∧
      (2000 ≤ ms → exec .acquireTimeout s = .next s))

/-- R16, R4: a start-of-frame with a new frame number replaces the link-frame mark with that number and N, on a configured link and whatever
the source; unless the source is LINK_FRAME nothing else changes. One with the number taken last, or on a link that is not
configured, changes nothing.
R9, R10: with LINK_FRAME, the 256th reference event counted in LOCKED records a correction within the pull range and counts afresh; the 256th
in HOLDOVER leads to ACQUIRING, entered afresh, with the reason SOURCE_CHANGED. Either replaces the link-frame mark. The correction recorded is
the one in force as the event is taken.
R4, R7, R9, R10: any other start-of-frame with a new number and LINK_FRAME is a reference event too. In ACQUIRING it moves the lock run, and locks at
64; the first after an entry takes the nearest frame boundary as the anchor. In LOCKED and HOLDOVER it is counted. Each later event keeps
the anchor and counts the link frames since by the frame number.
Model's choices: the first start-of-frame after a reset carries a new number (assumption log, 15); which correction stands at the event (10);
from where the 256 events are counted (46, 47); how the phase tells the nearest boundary, and the anchor at N = 0 (11). -/
def Obligations.StartsOfFrame : Prop :=
  (∀ (s : State) (frame : BitVec 11) (phase : Ratio), s.hub.resetN = true →
     ((s.hub.link.configured = false ∨ s.hub.link.lastFrame = some frame) → exec (.startOfFrame frame phase) s = .next s) ∧
     (s.hub.link.configured = true → s.hub.link.lastFrame ≠ some frame → s.hub.clock.source ≠ .linkFrame →
       exec (.startOfFrame frame phase) s = s.becomes
         (s.hub.withLink { s.hub.link with mark := ⟨frame, s.hub.clock.n⟩, lastFrame := some frame })) ∧
     (s.hub.link.configured = true → s.hub.link.lastFrame ≠ some frame →
       ∃ h : Hub, exec (.startOfFrame frame phase) s = s.becomes h ∧
         h.link.mark = ⟨frame, s.hub.clock.n⟩ ∧ h.clock.n = s.hub.clock.n ∧
         Hub.Within [.clock, .draws, .link, .linkState] s.hub h)) ∧
  (∀ (s : State) (frame : BitVec 11) (phase : Ratio), s.hub.resetN = true → s.hub.clock.source = .linkFrame →
     255 ≤ s.hub.clock.refRun → s.hub.link.configured = true → s.hub.link.lastFrame ≠ some frame →
     (s.hub.clock.state = .locked →
       ∃ h : Hub, exec (.linkCorrectionRecord frame phase) s = s.becomes h ∧
         h.clock.state = .locked ∧ withinPull h.clock.held ∧ (withinPull s.hub.clock.steered → h.clock.held = s.hub.clock.steered) ∧
         h.clock.refRun = 0 ∧ h.clock.n = s.hub.clock.n ∧
         h.link = { s.hub.link with mark := ⟨frame, s.hub.clock.n⟩, lastFrame := some frame } ∧
         Hub.Within [.clock, .draws, .link, .linkState] s.hub h) ∧
     (s.hub.clock.state = .holdover →
       ∃ h : Hub, exec (.linkReferenceReturn frame phase) s = s.becomes h ∧
         h.clock.state = .acquiring ∧ h.clock.lockRun = 0 ∧ h.clock.timer = some 0 ∧ h.clock.anchor = none ∧
         h.clock.held = s.hub.clock.held ∧ h.clock.n = s.hub.clock.n ∧ h.link.mark = ⟨frame, s.hub.clock.n⟩ ∧
         h.link.notices = (s.hub.link.post s.hub.clock.n (.clockState .acquiring .linkFrame s.hub.clock.rate
           s.hub.clock.detected .sourceChanged)).notices ∧
         Hub.Within [.clock, .draws, .link, .linkState] s.hub h)) ∧
  ∀ (s : State) (frame : BitVec 11) (phase : Ratio) (marked : Link), s.hub.resetN = true → s.hub.clock.source = .linkFrame →
    s.hub.link.configured = true → s.hub.link.lastFrame ≠ some frame →
    marked = { s.hub.link with mark := ⟨frame, s.hub.clock.n⟩, lastFrame := some frame } →
    ∃ h : Hub, exec (.startOfFrame frame phase) s = s.becomes h ∧
      h.clock.n = s.hub.clock.n ∧ h.clock.rate = s.hub.clock.rate ∧ h.clock.source = .linkFrame ∧ h.clock.detected = s.hub.clock.detected ∧
      (s.hub.clock.state = .acquiring → h.clock.held = s.hub.clock.held ∧
        h.clock.lockRun = (if withinBound phase then min 64 (s.hub.clock.lockRun + 1) else 0) ∧
        (h.clock.lockRun = 64 → h.clock.state = .locked ∧ h.clock.timer = none ∧ h.link = marked.post s.hub.clock.n
          (.clockState .locked .linkFrame s.hub.clock.rate s.hub.clock.detected .locked)) ∧
        (h.clock.lockRun ≠ 64 → h.clock.state = .acquiring ∧ h.clock.timer = s.hub.clock.timer ∧ h.link = marked) ∧
        (s.hub.clock.anchor = none → h.clock.anchor = some (if 0 ≤ phase.num then s.hub.clock.n - 1 else s.hub.clock.n) ∧
          h.clock.sinceAnchor = 0)) ∧
      (s.hub.clock.refRun < 255 → s.hub.clock.state = .locked ∨ s.hub.clock.state = .holdover →
        h.clock.state = s.hub.clock.state ∧ h.clock.refRun = s.hub.clock.refRun + 1 ∧ h.clock.held = s.hub.clock.held ∧
        h.clock.lockRun = s.hub.clock.lockRun ∧ h.link = marked ∧ (s.hub.clock.state = .holdover → h.clock.inForce = s.hub.clock.inForce)) ∧
      ∀ a, s.hub.clock.anchor = some a → s.hub.clock.state ≠ .holdover ∨ s.hub.clock.refRun < 255 →
        h.clock.anchor = some a ∧ h.clock.sinceAnchor = s.hub.clock.sinceAnchor + match s.hub.link.lastFrame with
          | none => 1
          | some f => (frame - f).toNat

/-- R1, R3: a frame boundary advances N by one and changes nothing else in the Media Clock. During a crystal switch no boundary occurs; the
end of the switch lets boundaries occur again. -/
def Obligations.FrameBoundaryAdvancesN : Prop :=
  ∀ (s : State) (mCycles : Nat) (wire : List (List SlotWord)),
    (s.hub.framesRun → ∃ h : Hub, exec (.frameBoundary mCycles wire) s = s.becomes h ∧
      h.clock = { s.hub.clock with n := s.hub.clock.n + 1 } ∧ h.resetN = true ∧ Link.Reports s.hub.link h.link) ∧
    (s.hub.clock.switching = true → exec (.frameBoundary mCycles wire) s = .next s) ∧
    (s.hub.resetN = true → exec .crystalSwitchDone s = s.becomes (s.hub.withClock { s.hub.clock with switching := false }))

/-! ### Chapter 2: clock outputs and tally units -/

/-- R23's table: what SET_CLOCK_OUTPUT does to the output it names, by the output's state; nothing else changes. A change of inversion that
acts at once starts the wait of R20 anew. Model's choice: a choice given in PAUSED with the inversion kept does not change whether that wait
applies, which R23 and R24 leave open (assumption log, 57). -/
def Obligations.SetClockOutputTable : Prop :=
  ∀ (s : State) (tag : Tag) (i : Nat) (o : ClockOut) (c : Choice) (inv e : Bool), s.hub.Ready → i < 4 → s.hub.out i = some o →
    ∃ o' : ClockOut,
      exec (.setClockOutput tag [oneByte i, oneByte c.code, flagByte inv, flagByte e]) s = s.answered (s.hub.putOut i o') 0x10 tag .ok [] ∧
      o'.enable = e ∧ o'.period = o.period ∧ o'.change = o.change ∧
      (o.state = .quiet ∨ o.state = .starting ∨ o.state = .paused → o'.choice = c ∧ o'.inv = inv ∧ o'.staged = o.staged ∧
        (inv ≠ o.inv → o'.heldCycles = 0 ∧ o'.noWait = false) ∧ (inv = o.inv → o'.heldCycles = o.heldCycles)) ∧
      (o.state = .quiet → o'.state = .starting → o'.noWait = false) ∧
      (o.state = .starting → inv = o.inv → (o'.noWait = true ↔ o.noWait = true ∧ c = o.choice)) ∧
      (o.state = .paused → inv = o.inv → o'.noWait = o.noWait) ∧
      (o.state = .running ∨ o.state = .closing → o'.choice = o.choice ∧ o'.inv = o.inv ∧
        o'.staged = (if c = o.choice ∧ inv = o.inv ∧ e = o.enable then none else some ⟨c, inv⟩)) ∧
      (o.state = .quiet → o'.state = if e = true ∧ c ≠ .off then .starting else .quiet) ∧
      (o.state = .starting → o'.state = if e = true ∧ c ≠ .off then .starting else .quiet) ∧
      (o.state = .running → o'.state = if e then .running else .closing) ∧
      (o.state = .closing → o'.state = if e then .running else .closing) ∧
      (o.state = .paused → o'.state = if e then .paused else .quiet)

/-- R19, R20, R24: `mCycles` cycles of M after what was taken before, a STARTING output whose choice is M/k begins a whole period in RUNNING exactly
when the divider counter is a multiple of k and at least k cycles of M have passed since the pin's level last changed, or the wait does not
apply; while a crystal switch is waited out it goes on waiting. The cycles since the change are `heldCycles`, which SET_CLOCK_OUTPUT sets to
0 at a change of inversion and every event that carries cycles of M counts up. Every other output only sees the cycles pass. In a period of M/k
the pin shows the active level for k half-cycles of M and the inactive level for the next k; outside a period it shows the inactive level.
R21, R22, R24: at the end of a period the staged setting replaces choice and inversion and is cleared, and the output becomes QUIET,
PAUSED, STARTING or stays RUNNING with a new whole period, by the cases of R22 and R24. With the inversion kept, the pin has then held its
inactive level for half the period; a change of inversion begins a wait of 0 cycles.
Model's choices: time passes in the operands of the events alone (assumption log, 16), the wait is counted in whole cycles of M (17), a WORD
output whose inversion changes at a rate change within the family waits (49), an output PAUSED with its inversion kept does not (57), a crystal switch
holds back every start (58), a period that RESET_PART found in progress ends as after a rate change when its output is enabled again (62), one that
ends only after the first frame boundary at the new rate leaves its output PAUSED until the next frame boundary (64), and the event that a period ends is taken at its word,
whatever cycles of M have been counted in it (65). -/
def Obligations.ClockOutputEvents : Prop :=
  (∀ (s : State) (i mCycles : Nat) (o : ClockOut), s.hub.resetN = true → s.hub.out i = some o →
     ∃ h o', exec (.clockOutputStart i mCycles) s = s.becomes h ∧ Hub.Within [.outputs] s.hub h ∧
       h.outputs.divider = (s.hub.outputs.divider + mCycles) % 16 ∧ h.out i = some o' ∧
       o'.choice = o.choice ∧ o'.inv = o.inv ∧ o'.enable = o.enable ∧ o'.staged = o.staged ∧
       o'.heldCycles = o.heldCycles + mCycles ∧
       (∀ j p, j ≠ i → s.hub.out j = some p →
         h.out j = some { p with heldCycles := p.heldCycles + mCycles, elapsed := p.elapsed + mCycles }) ∧
       ((o.state = .starting ∧ s.hub.clock.switching = false ∧ s.hub.outputs.switchPending = false ∧ 0 < o.choice.divisor ∧
           (s.hub.outputs.divider + mCycles) % 16 % o.choice.divisor = 0 ∧
           (o.noWait = true ∨ o.choice.divisor ≤ o.heldCycles + mCycles)) →
         o'.state = .running ∧ o'.period = some ⟨o.choice, o.inv⟩ ∧
           ∀ frame k, h.cko i frame k = if k % (2 * o.choice.divisor) < o.choice.divisor then !o.inv else o.inv) ∧
       (¬ (o.state = .starting ∧ s.hub.clock.switching = false ∧ s.hub.outputs.switchPending = false ∧ 0 < o.choice.divisor ∧
           (s.hub.outputs.divider + mCycles) % 16 % o.choice.divisor = 0 ∧
           (o.noWait = true ∨ o.choice.divisor ≤ o.heldCycles + mCycles)) →
         o'.state = o.state ∧ o'.period = o.period ∧ o'.elapsed = o.elapsed + mCycles ∧
           (o.period = none → ∀ frame k, h.cko i frame k = o.inv))) ∧
  (∀ (s : State) (i mCycles : Nat) (atFrame : Bool) (o : ClockOut) (cur new : OutSetting), s.hub.resetN = true →
     s.hub.out i = some o → o.period = some cur → (o.state = .running ∨ o.state = .closing) →
     new = o.staged.getD ⟨o.choice, o.inv⟩ →
     ∃ h o', exec (.clockOutputPeriodEnd i mCycles atFrame) s = s.becomes h ∧ Hub.Within [.outputs] s.hub h ∧ h.out i = some o' ∧
       (∀ j p, j ≠ i → s.hub.out j = some p →
         h.out j = some { p with heldCycles := p.heldCycles + mCycles, elapsed := p.elapsed + mCycles }) ∧
       o'.choice = new.choice ∧ o'.inv = new.inv ∧ o'.staged = none ∧ o'.enable = o.enable ∧ o'.change = .none ∧ o'.elapsed = 0 ∧
       (new.inv ≠ cur.inv → o'.heldCycles = 0 ∧ o'.noWait = false) ∧
       (new.inv = cur.inv →
         o'.heldCycles = if cur.choice = .word then (o.elapsed + mCycles) / 2 else cur.choice.divisor / 2) ∧
       (o.state = .closing ∨ new.choice = .off → o'.state = .quiet ∧ o'.period = none) ∧
       (o.state = .running → new.choice ≠ .off →
         (o.change = .across → o'.state = .paused ∧ o'.period = none ∧ (new.inv = cur.inv → o'.noWait = true)) ∧
         (o.change = .within → new.choice = .word → o'.state = .starting ∧ o'.period = none ∧ (new.inv = cur.inv → o'.noWait = true)) ∧
         (o.change = .none ∨ (o.change = .within ∧ new.choice ≠ .word) →
           (new.inv ≠ cur.inv → o'.state = .starting ∧ o'.period = none) ∧
           (new = cur → o'.state = .running ∧ o'.period = some cur) ∧
           (new.inv = cur.inv → new.choice ≠ cur.choice →
             (new.choice.atBoundary ((s.hub.outputs.divider + mCycles) % 16) atFrame = true →
               o'.state = .running ∧ o'.period = some new) ∧
             (new.choice.atBoundary ((s.hub.outputs.divider + mCycles) % 16) atFrame = false →
               o'.state = .starting ∧ o'.period = none ∧ o'.noWait = true))))) ∧
  (∀ (s : State) (i mCycles : Nat) (atFrame : Bool) (o : ClockOut), s.hub.resetN = true → s.hub.out i = some o → o.period = none →
     ∃ h, exec (.clockOutputPeriodEnd i mCycles atFrame) s = s.becomes h ∧
       h.out i = some { o with heldCycles := o.heldCycles + mCycles, elapsed := o.elapsed + mCycles })

/-- R19 to R22, R24: a frame boundary at which no cue is due sets the divider counter to 0 when it is the first after a reset or a crystal switch,
and whenever the clock state is INTERNAL. A PAUSED output whose choice is OFF becomes QUIET; any other PAUSED output, and a STARTING one, begins
its first whole period there exactly when the boundary is one of its choice and its pin has held its level for a whole period of it (or the wait
does not apply), and is STARTING until then. A whole period of WORD is the frame period that ends there. A WORD period ends there, unless a rate
change or RESET_PART abandoned its frame, and the staged setting replaces choice and inversion: a CLOSING output, or one whose choice is now OFF, becomes QUIET; a
RUNNING one whose inversion changes becomes STARTING, with its wait from here; any other RUNNING one begins a period of its choice at once if the
boundary is one of it, and waits for one in STARTING if not. The pin shows the active level for the first half of the new period: for WORD half the length
of the frame. A QUIET output, an M/k output in a period and a WORD output in an abandoned frame only see the cycles pass.
Model's choices: the wait of a WORD output in the cycles since the last frame boundary, or of the nominal period where none came before on this
timebase (assumption log, 17); the corners of staging and rate changes (18); a PAUSED output with its inversion kept does not wait (57), and one that became
PAUSED after the first frame boundary at the new rate waits for the next (64); the counter's 0 at an INTERNAL boundary after steering, over which an M/k
period in progress keeps its phase (48). -/
def Obligations.ClockOutputsAtABoundary : Prop :=
  ∀ (s : State) (mCycles : Nat) (wire : List (List SlotWord)) (i : Nat) (o : ClockOut), s.hub.framesRun → s.hub.noCueDue →
    s.hub.out i = some o →
    ∃ h o', exec (.frameBoundary mCycles wire) s = s.becomes h ∧ h.out i = some o' ∧ h.outputs.switchPending = false ∧
      h.outputs.sinceFrame = some 0 ∧
      h.outputs.divider = (if s.hub.outputs.zeroNext = true ∨ s.hub.clock.state = .internal then 0
        else (s.hub.outputs.divider + mCycles) % 16) ∧
      (o.state = .paused → o.period = none → o.choice = .off → o'.state = .quiet) ∧
      (∀ whole, whole = (match o.choice, s.hub.outputs.sinceFrame with
          | .word, some f => f + mCycles
          | c, _ => c.cycles s.hub.clock.rate) →
        (o.state = .paused ∨ o.state = .starting) → o.period = none → o.choice ≠ .off →
        ((o.choice = .word ∨ h.outputs.divider % o.choice.divisor = 0) ∧ (o.noWait = true ∨ whole ≤ o.heldCycles + mCycles) →
          o'.state = .running ∧ o'.period = some ⟨o.choice, o.inv⟩ ∧ o'.elapsed = 0) ∧
        (¬ ((o.choice = .word ∨ h.outputs.divider % o.choice.divisor = 0) ∧ (o.noWait = true ∨ whole ≤ o.heldCycles + mCycles)) →
          o'.state = .starting ∧ o'.period = none ∧ o'.heldCycles = o.heldCycles + mCycles)) ∧
      (∀ (v : Bool) (new : OutSetting), (o.state = .running ∨ o.state = .closing) → o.period = some ⟨.word, v⟩ → o.change = .none →
        new = o.staged.getD ⟨o.choice, o.inv⟩ →
        o'.choice = new.choice ∧ o'.inv = new.inv ∧ o'.staged = none ∧ o'.enable = o.enable ∧ o'.change = .none ∧
        (o.state = .closing ∨ new.choice = .off → o'.state = .quiet ∧ o'.period = none ∧ ∀ frame k, h.cko i frame k = new.inv) ∧
        (o.state = .running → new.choice ≠ .off → new.inv ≠ v → 0 < mCycles →
          o'.state = .starting ∧ o'.period = none ∧ o'.heldCycles = 0 ∧ o'.noWait = false ∧ ∀ frame k, h.cko i frame k = new.inv) ∧
        (o.state = .running → new.inv = v → new.choice ≠ .off → new.choice ≠ .word →
          (h.outputs.divider % new.choice.divisor = 0 → o'.state = .running ∧ o'.period = some new ∧ o'.elapsed = 0 ∧
            ∀ frame k, h.cko i frame k = if k % (2 * new.choice.divisor) < new.choice.divisor then !new.inv else new.inv) ∧
          (h.outputs.divider % new.choice.divisor ≠ 0 → o'.state = .starting ∧ o'.period = none ∧ o'.noWait = true)) ∧
        (o.state = .running → new = ⟨.word, v⟩ → o'.state = .running ∧ o'.period = some new ∧ o'.elapsed = 0 ∧
          ∀ frame k, h.cko i frame k = if k < frame then !v else v)) ∧
      ((o.state = .quiet ∧ o.period = none) ∨
          ((o.state = .running ∨ o.state = .closing) ∧ ∃ c, o.period = some c ∧ (c.choice ≠ .word ∨ o.change ≠ .none)) →
        o' = { o with heldCycles := o.heldCycles + mCycles, elapsed := o.elapsed + mCycles })

/-- R26: an accepted SET_TALLY replaces the settings of a STOPPED unit and moves its pin to the inactive level of the new polarity; of a unit in
any other state it becomes the staged settings.
R30: a stop in STOPPED changes nothing; in any other state the unit becomes STOPPED, its pin inactive, and staged settings replace the
settings and are cleared.
R28: RUN_TALLY evaluates the run against N by the table of R28; without settings it is refused NO_SUCH, and in any state but STOPPED it is
refused BUSY. -/
def Obligations.TallyCommands : Prop :=
  ((∀ (s : State) (tag : Tag) (u : Nat) (t : Tally) (c : TallySettings), s.hub.Ready → u < 4 → s.hub.tally u = some t → c.fits →
      (t.state = .stopped → exec (.setTally tag (oneByte u :: c.bytes)) s =
        s.answered (s.hub.putTally u { t with settings := some c, pin := decide (c.polarity = .activeLow) }) 0x12 tag .ok []) ∧
      (t.state ≠ .stopped → exec (.setTally tag (oneByte u :: c.bytes)) s =
        s.answered (s.hub.putTally u { t with staged := some c }) 0x12 tag .ok [])) ∧
   (∀ (s : State) (tag : Tag) (u : Nat) (t : Tally), s.hub.Ready → u < 4 → s.hub.tally u = some t →
      (t.state = .stopped → exec (.stopTally tag [oneByte u]) s = s.answered s.hub 0x14 tag .ok []) ∧
      (t.state ≠ .stopped → ∃ t', exec (.stopTally tag [oneByte u]) s = s.answered (s.hub.putTally u t') 0x14 tag .ok [] ∧
        t'.state = .stopped ∧ t'.edge = none ∧ t'.staged = none ∧ t'.settings = t.staged.or t.settings ∧
        t'.pin = match t'.settings with
          | none => false
          | some c => decide (c.polarity = .activeLow)))) ∧
  (∀ (s : State) (tag : Tag) (u : Nat) (t : Tally), s.hub.Ready → u < 4 → s.hub.tally u = some t →
     (t.settings = none → exec (.runTally tag [oneByte u]) s = s.answered s.hub 0x13 tag .noSuch []) ∧
     (t.settings ≠ none → t.state ≠ .stopped → exec (.runTally tag [oneByte u]) s = s.answered s.hub 0x13 tag .busy []) ∧
     ∀ c, t.settings = some c → c.fits → t.state = .stopped →
       ∃ st edge, exec (.runTally tag [oneByte u]) s =
           s.answered (s.hub.putTally u { t with state := st, edge := edge }) 0x13 tag .ok [] ∧
         (s.hub.clock.n < c.start → st = .waiting ∧ edge = some c.start) ∧
         (c.mode = .oneshot → c.start ≤ s.hub.clock.n → s.hub.clock.n < c.start + c.width →
           st = .active ∧ edge = some (c.start + c.width)) ∧
         (c.mode = .oneshot → c.start + c.width ≤ s.hub.clock.n → st = .stopped ∧ edge = none) ∧
         ∀ k r, c.mode = .periodic → r < c.period → s.hub.clock.n = c.start + k * c.period + r →
           (r < c.width → st = .active ∧ edge = some (c.start + k * c.period + c.width)) ∧
           (c.width ≤ r → st = .resting ∧ edge = some (c.start + (k + 1) * c.period)))

/-- R28, R29, R27: a running unit without staged settings whose state and next edge are those of a run evaluated for the frame in progress has,
after the next boundary, those of a run evaluated for the frame that boundary begins, and its pin shows that state's level.
R28, R27: a unit whose state is that of a run evaluated against N, as RUN_TALLY leaves it, keeps it over the first boundary after, from which its pin shows that
state's level: a pulse already begun starts there, and a run that completed at once shows none.
R29: staged settings are applied at the end of the period, where the unit is evaluated against them, or at the end of a ONESHOT pulse,
where it becomes STOPPED; a WAITING unit that reaches its start keeps them staged over its pulse. -/
def Obligations.TalliesAtABoundary : Prop :=
  (∀ (s : State) (mCycles : Nat) (wire : List (List SlotWord)) (u p : Nat) (t : Tally) (c : TallySettings), s.hub.framesRun →
     s.hub.noCueDue → s.hub.clock.n = p + 1 → s.hub.tally u = some t → t.settings = some c → c.fits → t.staged = none →
     t.state ≠ .stopped → (t.state, t.edge) = c.evaluate p →
     ∃ h t', exec (.frameBoundary mCycles wire) s = s.becomes h ∧ h.tally u = some t' ∧ t'.settings = some c ∧ t'.staged = none ∧
       (t'.state, t'.edge) = c.evaluate (p + 1) ∧ t'.pin = c.polarity.level (decide (t'.state = .active))) ∧
  (∀ (s : State) (mCycles : Nat) (wire : List (List SlotWord)) (u : Nat) (t : Tally) (c : TallySettings), s.hub.framesRun →
     s.hub.noCueDue → s.hub.tally u = some t → t.settings = some c → c.fits → (t.state, t.edge) = c.evaluate s.hub.clock.n →
     ∃ h, exec (.frameBoundary mCycles wire) s = s.becomes h ∧
       h.tally u = some { t with pin := c.polarity.level (decide (t.state = .active)) }) ∧
  (∀ (s : State) (mCycles : Nat) (wire : List (List SlotWord)) (u : Nat) (t : Tally) (c new : TallySettings), s.hub.framesRun →
     s.hub.noCueDue → s.hub.tally u = some t → t.settings = some c → t.staged = some new → t.edge = some s.hub.clock.n →
     ∃ h t', exec (.frameBoundary mCycles wire) s = s.becomes h ∧ h.tally u = some t' ∧
       (t.state = .resting → t'.settings = some new ∧ t'.staged = none ∧ (t'.state, t'.edge) = new.evaluate s.hub.clock.n ∧
         t'.pin = new.polarity.level (decide (t'.state = .active))) ∧
       (t.state = .active → c.mode = .oneshot → t'.settings = some new ∧ t'.staged = none ∧ t'.state = .stopped ∧ t'.edge = none ∧
         t'.pin = new.polarity.level false) ∧
       (t.state = .waiting → t'.settings = some c ∧ t'.staged = some new ∧ t'.state = .active ∧
         t'.edge = some (s.hub.clock.n + c.width) ∧ t'.pin = c.polarity.level true) ∧
       (t.state = .active → c.mode = .periodic → t'.settings = some c ∧ t'.staged = some new ∧ t'.state = .resting ∧
         t'.edge = some (s.hub.clock.n + (c.period - c.width))))

/-! ### Chapter 3: the stream table -/

/-- R34 to R36, R38: DEFINE_STREAM of an undefined entry with a descriptor in range, a map that passes and a free run long enough takes the lowest
such run, records the claims of a PLAY map, and replies with the run's first page and length; no other stream, page or claim changes. A
defined entry or a map that fails is refused CONFLICT, and a request no free run can hold is refused FULL. The new entry is R38's DEFINE_STREAM column:
IDLE, the allowance at the reload, arm position, S, E and Dp absent, CLAMPED, mute and DISCONTINUITY clear, no report mark, every last output value and the
gap run 0, and a cleared ring. Model's choice: the not-running marks are clear, which R37 leaves open (assumption log, 63). -/
def Obligations.DefineStream : Prop :=
  ∀ (s : State) (tag : Tag) (i : Nat) (d : Descriptor), s.hub.Ready → i < 16 → d.fits → s.hub.engine.streams.length = 16 →
    s.hub.engine.pages.length = 256 →
    ((s.hub.stream i ≠ none ∨ ∃ k e, d.map[k]? = some e ∧ ¬ s.hub.mapEntryPasses d.direction d.map k e) →
      exec (.defineStream tag (d.bytes i)) s = s.answered s.hub 0x20 tag .conflict []) ∧
    (s.hub.stream i = none → (∀ k e, d.map[k]? = some e → s.hub.mapEntryPasses d.direction d.map k e) →
      ((∀ first, ¬ s.hub.engine.freeRun first ((d.map.length * d.capacity + 1023) / 1024)) →
        exec (.defineStream tag (d.bytes i)) s = s.answered s.hub 0x20 tag .full []) ∧
      ∀ first need, need = (d.map.length * d.capacity + 1023) / 1024 → s.hub.engine.freeRun first need →
        (∀ q, q < first → ¬ s.hub.engine.freeRun q need) →
        ∃ h : Hub, exec (.defineStream tag (d.bytes i)) s = s.answered h 0x20 tag .ok (oneByte first :: bytesOf 2 need) ∧
          Hub.Within [.engine] s.hub h ∧
          (∃ st, h.stream i = some st ∧ st.desc = d ∧ st.firstPage = first ∧ st.pageCount = need ∧ st.state = .idle ∧ st.allowance = d.reload ∧
            st.arm = none ∧ st.start = none ∧ st.stop = none ∧ st.clamped = false ∧ st.raised = false ∧ st.muted = false ∧ st.marks = [] ∧
            st.lastOut = List.replicate d.map.length 0 ∧ st.gapRun = 0 ∧ st.dp = none ∧ st.disc = false ∧ st.written = [] ∧
            st.ringLow = 0 ∧ st.ringHigh = 0 ∧ st.notRunning = []) ∧
          (∀ j, j ≠ i → h.stream j = s.hub.stream j) ∧
          (∀ p : Nat, p < 256 → h.engine.pages[p]? =
            if first ≤ p ∧ p < first + need then some (some i) else s.hub.engine.pages[p]?) ∧
          h.engine.claims = s.hub.engine.claims ++ (if d.direction = .play then d.map.map (fun e => ⟨e, i⟩) else []) ∧
          h.engine.pool = s.hub.engine.pool)

/-- R39, R46: ARM_STREAM of an IDLE or HALTED stream makes it ARMED with a fresh runtime record and an empty ring, and posts STREAM_STATE;
DELETE_STREAM of one frees its entry, its pages and its claims. In any other state both are refused BUSY, and for an undefined stream
NO_SUCH. -/
def Obligations.ArmAndDeleteStream : Prop :=
  ∀ (s : State) (tag : Tag) (i : Nat), s.hub.Ready → i < 16 → s.hub.engine.streams.length = 16 →
    (s.hub.stream i = none →
      exec (.armStream tag [oneByte i]) s = s.answered s.hub 0x21 tag .noSuch [] ∧
      exec (.deleteStream tag [oneByte i]) s = s.answered s.hub 0x24 tag .noSuch []) ∧
    ∀ st, s.hub.stream i = some st →
      ((st.state = .armed ∨ st.state = .running ∨ st.state = .draining) →
        exec (.armStream tag [oneByte i]) s = s.answered s.hub 0x21 tag .busy [] ∧
        exec (.deleteStream tag [oneByte i]) s = s.answered s.hub 0x24 tag .busy []) ∧
      ((st.state = .idle ∨ st.state = .halted) →
        (∃ st', exec (.armStream tag [oneByte i]) s =
            s.answered ((s.hub.putStream i st').post (.streamState i .armed .arm false false none none)) 0x21 tag .ok
              (bytesOf 6 s.hub.clock.n) ∧
          st'.desc = st.desc ∧ st'.firstPage = st.firstPage ∧ st'.pageCount = st.pageCount ∧ st'.state = .armed ∧
          st'.allowance = st.desc.reload ∧ st'.arm = some s.hub.clock.n ∧ st'.start = none ∧ st'.stop = none ∧ st'.clamped = false ∧
          st'.muted = false ∧ st'.marks = [] ∧ st'.lastOut = st.desc.map.map (fun _ => 0) ∧ st'.gapRun = 0 ∧ st'.written = [] ∧
          st'.dp = none ∧ st'.disc = false ∧ st'.ringLow = s.hub.clock.n ∧ st'.ringHigh = s.hub.clock.n) ∧
        ∃ h : Hub, exec (.deleteStream tag [oneByte i]) s = s.answered h 0x24 tag .ok [] ∧ Hub.Within [.engine] s.hub h ∧
          h.stream i = none ∧ (∀ j, j ≠ i → h.stream j = s.hub.stream j) ∧
          h.engine.claims = s.hub.engine.claims.filter (fun c => decide (c.stream ≠ i)) ∧ h.engine.pool = s.hub.engine.pool ∧
          ∀ p : Nat, h.engine.pages[p]? = if s.hub.engine.pages[p]? = some (some i) then some none else s.hub.engine.pages[p]?)

/-- R40, R67, R76, R77: TRIGGER_STREAM of an ARMED stream starts it at S and replies with S, E and CLAMPED. For PLAY, S is now and E = S + L
for a counted run. For CAPTURE, S is the highest of now − R, the arm position and now − C + B, and a counted run that is over by now
goes on to DRAINING. Any other state is refused BUSY. Model's choice: the STREAM_STATE notices carry the mark that E was raised
(assumption log, 27). Of a stream that is not defined TRIGGER_STREAM is refused NO_SUCH, and a trigger of any source changes nothing.
R40, R67, R70, R76, R77: the trigger operation of every source, with position T at or before now: S = T for PLAY, and a counted PLAY run whose E
lies before now ends within the trigger's event, its ring cleared, with the reason COUNT_DONE; for CAPTURE S comes from T by R76. -/
def Obligations.TriggerStream : Prop :=
  (∀ (h : Hub) (i t now : Nat) (why : StreamReason) (st : Stream), i < 16 → h.stream i = some st →
    (st.state ≠ .armed → h.trigger i t now why = h) ∧
    (st.state = .armed → st.desc.direction = .play → ∀ e, e = countedEnd st.desc.run t → ∃ st',
      st' = { st with state := .running, start := some t, stop := e, stopReason := st'.stopReason, clamped := false } ∧
      (e ≠ none → st'.stopReason = .countDone) ∧
      ((∀ x, e = some x → now ≤ x) →
        h.trigger i t now why = (h.putStream i st').post (.streamState i .running why false st.raised (some t) e)) ∧
      (∀ x, e = some x → x < now → h.trigger i t now why =
        ((h.putStream i { st' with state := .idle, written := [], marks := [], ringLow := 0, ringHigh := 0 }).post
          (.streamState i .running why false st.raised (some t) e)).post (.streamState i .idle .countDone false st.raised (some t) e))) ∧
    (st.state = .armed → st.desc.direction = .capture → ∀ (a b r k : Nat) (e : Option Nat) (cl : Bool), st.arm = some a →
      st.desc.block = some b → st.desc.preRoll = some r →
      (k : Int) = max (max ((t : Int) - r) a) ((now : Int) - st.desc.capacity + b) → e = countedEnd st.desc.run k →
      cl = decide ((k : Int) ≠ (t : Int) - r) →
      ∃ st', st'.state = .running ∧ st'.start = some k ∧ st'.stop = e ∧ st'.dp = some k ∧ st'.disc = false ∧ st'.clamped = cl ∧
        (e ≠ none → st'.stopReason = .countDone) ∧
        st'.ringHigh = st.ringHigh ∧ st'.desc = st.desc ∧ st'.arm = st.arm ∧ st'.allowance = st.allowance ∧
        ((∀ x, e = some x → now < x) → h.trigger i t now why =
          (h.putStream i st').post (.streamState i .running why cl st.raised (some k) e)) ∧
        (∀ x, e = some x → x ≤ now → h.trigger i t now why =
          ((h.putStream i { st' with state := .draining }).post (.streamState i .running why cl st.raised (some k) e)).post
            (.streamState i .draining .countDone cl st.raised (some k) e)))) ∧
  (∀ (h : Hub) (i t now : Nat) (why : StreamReason), h.stream i = none → h.trigger i t now why = h) ∧
  (∀ (s : State) (tag : Tag) (i : Nat), s.hub.Ready → i < 16 → s.hub.stream i = none →
    exec (.triggerStream tag [oneByte i]) s = s.answered s.hub 0x22 tag .noSuch []) ∧
  ∀ (s : State) (tag : Tag) (i : Nat) (st : Stream), s.hub.Ready → i < 16 → s.hub.stream i = some st →
    (st.state ≠ .armed → exec (.triggerStream tag [oneByte i]) s = s.answered s.hub 0x22 tag .busy []) ∧
    (st.state = .armed → st.desc.direction = .play → ∀ e, e = countedEnd st.desc.run s.hub.clock.n →
      ∃ st', exec (.triggerStream tag [oneByte i]) s =
          s.answered ((s.hub.putStream i st').post (.streamState i .running .triggerCommand false st.raised (some s.hub.clock.n) e))
            0x22 tag .ok (bytesOf 6 s.hub.clock.n ++ optBytes 6 e ++ [0]) ∧
        st' = { st with state := .running, start := some s.hub.clock.n, stop := e, stopReason := st'.stopReason, clamped := false } ∧
        (e ≠ none → st'.stopReason = .countDone)) ∧
    (st.state = .armed → st.desc.direction = .capture → ∀ (a b r k : Nat) (e : Option Nat) (cl : Bool), st.arm = some a → st.desc.block = some b →
      st.desc.preRoll = some r → (k : Int) = max (max ((s.hub.clock.n : Int) - r) a) ((s.hub.clock.n : Int) - st.desc.capacity + b) →
      e = countedEnd st.desc.run k → cl = decide ((k : Int) ≠ (s.hub.clock.n : Int) - r) →
      ∃ st', st'.state = .running ∧ st'.start = some k ∧ st'.stop = e ∧ st'.dp = some k ∧ st'.disc = false ∧ st'.clamped = cl ∧
        (e ≠ none → st'.stopReason = .countDone) ∧
        st'.desc = st.desc ∧ st'.arm = st.arm ∧ st'.allowance = st.allowance ∧
        ((∀ x, e = some x → s.hub.clock.n < x) →
          exec (.triggerStream tag [oneByte i]) s =
            s.answered ((s.hub.putStream i st').post (.streamState i .running .triggerCommand cl st.raised (some k) e)) 0x22 tag .ok
              (bytesOf 6 k ++ optBytes 6 e ++ [flagByte cl])) ∧
        (∀ x, e = some x → x ≤ s.hub.clock.n →
          exec (.triggerStream tag [oneByte i]) s =
            s.answered (((s.hub.putStream i { st' with state := .draining }).post
              (.streamState i .running .triggerCommand cl st.raised (some k) e)).post
                (.streamState i .draining .countDone cl st.raised (some k) e)) 0x22 tag .ok
              (bytesOf 6 k ++ optBytes 6 e ++ [flagByte cl])))

/-- R41, R42, R69, R81: what STOP_STREAM does in each state. In RUNNING the earlier of now and the stop position in force is kept, and a CAPTURE
stream's is raised to Dp; a CAPTURE stream whose E is not above now becomes DRAINING. Model's choice: the STREAM_STATE notices carry the mark that
E was raised (assumption log, 27). Of a stream that is not defined STOP_STREAM is refused NO_SUCH, and a stop of a cue or a binding changes nothing.
R41, R42, R69, R81: the stop operation of a cue or a binding, with position e: it does not reach a DRAINING stream; in RUNNING the earlier of e and the
position in force is kept; a PLAY stream stopped before now ends at once, its ring cleared, with the reason STOPPED. -/
def Obligations.StopStream : Prop :=
  (∀ (h : Hub) (i e now : Nat) (st : Stream), i < 16 → h.stream i = some st →
    (st.state = .idle → h.stopStream i e now false = (h, true)) ∧
    (st.state = .draining → h.stopStream i e now false = (h, false)) ∧
    (st.state = .armed → h.stopStream i e now false =
      ((h.putStream i { st with state := .idle, written := [], marks := [], ringLow := 0, ringHigh := 0 }).post
        (.streamState i .idle .stopped st.clamped st.raised st.start st.stop), true)) ∧
    (st.state = .halted → h.stopStream i e now false =
      ((h.putStream i { st with state := .idle, allowance := st.desc.reload }).post
        (.streamState i .idle .stopped st.clamped st.raised st.start st.stop), true)) ∧
    (st.state = .running → st.desc.direction = .play →
      (∀ x, st.stop = some x → x ≤ e → h.stopStream i e now false = (h.putStream i st, true)) ∧
      ((∀ x, st.stop = some x → e < x) →
        (now ≤ e → h.stopStream i e now false = (h.putStream i { st with stop := some e, stopReason := .stopped }, true)) ∧
        (e < now → h.stopStream i e now false = ((h.putStream i { st with
            stop := some e, stopReason := .stopped, state := .idle, written := [], marks := [], ringLow := 0, ringHigh := 0 }).post
          (.streamState i .idle .stopped st.clamped st.raised st.start (some e)), true)))) ∧
    (st.state = .running → st.desc.direction = .capture → ∀ d k r, st.dp = some d →
      ((∀ x, st.stop = some x → e < x) ∧ k = e ∧ r = .stopped ∨ ∃ x, st.stop = some x ∧ x ≤ e ∧ k = x ∧ r = st.stopReason) →
      (max k d ≤ now → h.stopStream i e now false =
        ((h.putStream i { st with stop := some (max k d), stopReason := r, raised := decide (k < d), state := .draining }).post
          (.streamState i .draining r st.clamped (decide (k < d)) st.start (some (max k d))), true)) ∧
      (now < max k d → h.stopStream i e now false =
        (h.putStream i { st with stop := some (max k d), stopReason := r, raised := decide (k < d) }, true)))) ∧
  (∀ (h : Hub) (i e now : Nat), h.stream i = none → h.stopStream i e now false = (h, false)) ∧
  (∀ (s : State) (tag : Tag) (i : Nat), s.hub.Ready → i < 16 → s.hub.stream i = none →
    exec (.stopStream tag [oneByte i]) s = s.answered s.hub 0x23 tag .noSuch []) ∧
  ∀ (s : State) (tag : Tag) (i : Nat) (st : Stream), s.hub.Ready → i < 16 → s.hub.stream i = some st →
    (st.state = .idle → exec (.stopStream tag [oneByte i]) s = s.answered s.hub 0x23 tag .ok (optBytes 6 none)) ∧
    (st.state = .armed → exec (.stopStream tag [oneByte i]) s =
      s.answered ((s.hub.putStream i { st with state := .idle, written := [], marks := [], ringLow := 0, ringHigh := 0 }).post
        (.streamState i .idle .stopped st.clamped st.raised st.start st.stop)) 0x23 tag .ok (optBytes 6 none)) ∧
    (st.state = .draining → exec (.stopStream tag [oneByte i]) s =
      s.answered ((s.hub.putStream i { st with state := .idle, written := [], marks := [], ringLow := 0, ringHigh := 0 }).post
        (.streamState i .idle .abandoned st.clamped st.raised st.start st.stop)) 0x23 tag .ok (optBytes 6 none)) ∧
    (st.state = .halted → exec (.stopStream tag [oneByte i]) s =
      s.answered ((s.hub.putStream i { st with state := .idle, allowance := st.desc.reload }).post
        (.streamState i .idle .stopped st.clamped st.raised st.start st.stop)) 0x23 tag .ok (optBytes 6 none)) ∧
    (st.state = .running → ∀ e r,
      ((st.stop = none ∧ e = s.hub.clock.n ∧ r = .stopped) ∨ (∃ x, st.stop = some x ∧ s.hub.clock.n < x ∧ e = s.hub.clock.n ∧ r = .stopped) ∨
        (∃ x, st.stop = some x ∧ x ≤ s.hub.clock.n ∧ e = x ∧ r = st.stopReason)) →
      (st.desc.direction = .play → exec (.stopStream tag [oneByte i]) s =
        s.answered (s.hub.putStream i { st with stop := some e, stopReason := r }) 0x23 tag .ok (optBytes 6 (some e))) ∧
      (∀ d, st.desc.direction = .capture → st.dp = some d → max e d ≤ s.hub.clock.n →
        exec (.stopStream tag [oneByte i]) s =
          s.answered ((s.hub.putStream i { st with stop := some (max e d), stopReason := r, raised := decide (e < d), state := .draining }).post
            (.streamState i .draining r st.clamped (decide (e < d)) st.start (some (max e d)))) 0x23 tag .ok
            (optBytes 6 (some (max e d)))))

/-! ### Chapters 4 and 5: placement, playout and capture -/

/-- R56, R87: a host sample becomes the part's 24-bit value as it is placed, and the part's value becomes a host sample as its block is
taken, by the table of each rule. -/
def Obligations.SampleConversions : Prop :=
  (∀ (body : List Byte) (off : Nat),
    (sampleAt .s16 body off).toInt = 256 * (BitVec.ofNat 16 (fieldAt body off 2)).toInt ∧
    (sampleAt .s24 body off).toInt = (BitVec.ofNat 24 (fieldAt body off 3)).toInt ∧
    (sampleAt .s32 body off).toInt = (BitVec.ofNat 32 (fieldAt body off 4)).toInt / 256) ∧
  ∀ v : Sample,
    ((hostSample .s24 v).length = 3 ∧ (BitVec.ofNat 24 (fieldAt (hostSample .s24 v) 0 3)).toInt = v.toInt) ∧
    ((hostSample .s32 v).length = 4 ∧ (BitVec.ofNat 32 (fieldAt (hostSample .s32 v) 0 4)).toInt = 256 * v.toInt) ∧
    ((hostSample .s16 v).length = 2 ∧
      (BitVec.ofNat 16 (fieldAt (hostSample .s16 v) 0 2)).toInt = max (-32768) (min 32767 ((v.toInt + 128) / 256)))

/-- R53 to R55, R57, R58: a play block of the right shape for an ARMED or RUNNING PLAY stream that overlaps the window [N, N + C) has its frames
within the window placed: their slots are marked written with their positions, and their words hold the converted samples; every other
mark and every other word of the pool is as before. The cuts are reported, head first, by BLOCK_REFUSED with the reasons HEAD_TRIMMED and
TAIL_TRUNCATED, the block's start and the number of frames cut (R54, R58). The report mark, the position of the last placed frame, is entered when
asked for: not when it is held already; in its place when fewer than four are held; otherwise in place of the highest mark, if it is above that. -/
def Obligations.PlayBlockPlaced : Prop :=
  ∀ (s : State) (i flags f p0 : Nat) (data : List Byte) (st : Stream) (body : List Byte),
    s.hub.takesMessages = true → i < 16 → flags < 256 → s.hub.stream i = some st → st.desc.direction = .play →
    (st.state = .armed ∨ st.state = .running) → 1 ≤ f → f ≤ 1024 → p0 < 281474976710656 → 0 < st.desc.capacity →
    data.length = f * st.desc.map.length * st.desc.format.width → data.length ≤ 16384 →
    body = [oneByte i, oneByte flags] ++ bytesOf 2 f ++ bytesOf 6 p0 ++ data →
    s.hub.clock.n < p0 + f → p0 < s.hub.clock.n + st.desc.capacity →
    ∃ (h : Hub) (st' : Stream), exec (.playBlock body) s = s.becomes h ∧ Hub.Within [.engine, .link] s.hub h ∧ h.stream i = some st' ∧
      st' = { st with written := st'.written, marks := st'.marks } ∧
      (flags % 2 = 0 → st'.marks = st.marks) ∧
      (∀ m, flags % 2 = 1 → m = min (p0 + f) (s.hub.clock.n + st.desc.capacity) - 1 →
        (m ∈ st.marks → st'.marks = st.marks) ∧
        (m ∉ st.marks → st.marks.length < 4 → (∀ x, x ∈ st'.marks ↔ x = m ∨ x ∈ st.marks) ∧
          (st.marks.Pairwise (· < ·) → st'.marks.Pairwise (· < ·))) ∧
        (∀ rest top, m ∉ st.marks → 4 ≤ st.marks.length → st.marks = rest ++ [top] →
          st'.marks = if top < m then rest ++ [m] else st.marks)) ∧
      (∀ j, j ≠ i → h.stream j = s.hub.stream j) ∧
      (∀ p, max p0 s.hub.clock.n ≤ p → p < min (p0 + f) (s.hub.clock.n + st.desc.capacity) →
        cellGet st'.written (p % st.desc.capacity) = some p ∧
        ∀ c, c < st.desc.map.length → poolRead h.engine.pool (st.frameWord p + c) =
          sampleAt st.desc.format data (((p - p0) * st.desc.map.length + c) * st.desc.format.width)) ∧
      (∀ k, (∀ p, max p0 s.hub.clock.n ≤ p → p < min (p0 + f) (s.hub.clock.n + st.desc.capacity) → k ≠ p % st.desc.capacity) →
        cellGet st'.written k = cellGet st.written k) ∧
      (∀ w, (∀ p c, max p0 s.hub.clock.n ≤ p → p < min (p0 + f) (s.hub.clock.n + st.desc.capacity) → c < st.desc.map.length →
          w ≠ st.frameWord p + c) → poolRead h.engine.pool w = poolRead s.hub.engine.pool w) ∧
      ∃ l : Link, l = (if p0 < s.hub.clock.n then
          s.hub.link.post s.hub.clock.n (.blockRefused i .headTrimmed p0 (s.hub.clock.n - p0)) else s.hub.link) ∧
        h.link = (if s.hub.clock.n + st.desc.capacity < p0 + f then
          l.post s.hub.clock.n (.blockRefused i .tailTruncated p0 (p0 + f - (s.hub.clock.n + st.desc.capacity))) else l)

/-- R51 to R53, R43, R58: a play block that names no PLAY stream (NO_STREAM) or one that is not ARMED or RUNNING (NOT_ARMED) changes no stream,
nor does one shorter than its fixed bytes (MALFORMED); one of the wrong shape (MALFORMED), one that ends at or before N (LATE) or starts
at or after N + C (EARLY) costs one of the allowance, and a stream whose allowance is exhausted becomes HALTED unless its reload is 0. The
shape is right when F is 1 to 1,024 and the sample bytes are F frames of the map's channels in the stream's format, at most 16,384.
Each is reported by BLOCK_REFUSED. Model's choice: the mark that E was raised in the notice of HALTED (assumption log, 27). -/
def Obligations.PlayBlockRefused : Prop :=
  ∀ (s : State) (i flags f p0 : Nat) (data body : List Byte), s.hub.takesMessages = true → i < 256 → f < 65536 →
    p0 < 281474976710656 → body = [oneByte i, oneByte flags] ++ bytesOf 2 f ++ bytesOf 6 p0 ++ data →
    (∀ short : List Byte, short.length < 10 → exec (.playBlock short) s =
      s.becomes (s.hub.post (.blockRefused (if short = [] then 255 else byteAt short 0) .malformed 0 0))) ∧
    ((s.hub.stream i = none ∨ ∃ st, s.hub.stream i = some st ∧ st.desc.direction = .capture) →
      exec (.playBlock body) s = s.becomes (s.hub.post (.blockRefused i .noStream p0 f))) ∧
    ∀ st, s.hub.stream i = some st → st.desc.direction = .play →
      ((st.state ≠ .armed ∧ st.state ≠ .running) →
        exec (.playBlock body) s = s.becomes (s.hub.post (.blockRefused i .notArmed p0 f))) ∧
      ∀ (reason : BlockReason) (shape : Prop), (st.state = .armed ∨ st.state = .running) →
        (shape ↔ 1 ≤ f ∧ f ≤ 1024 ∧ data.length = f * st.desc.map.length * st.desc.format.width ∧ data.length ≤ 16384) →
        (reason = .malformed ∧ ¬ shape ∨
          shape ∧ reason = .late ∧ p0 + f ≤ s.hub.clock.n ∨
          shape ∧ reason = .early ∧ s.hub.clock.n < p0 + f ∧ s.hub.clock.n + st.desc.capacity ≤ p0) →
        (¬ (st.allowance = 1 ∧ st.desc.reload ≠ 0) →
          exec (.playBlock body) s = s.becomes ((s.hub.post (.blockRefused i reason p0 f)).putStream i
            { st with allowance := st.allowance - 1 })) ∧
        (st.allowance = 1 → st.desc.reload ≠ 0 →
          exec (.playBlock body) s = s.becomes (((s.hub.putStream i
            { st with allowance := 0, state := .halted, written := [], marks := [], ringLow := 0, ringHigh := 0 }).post
              (.blockRefused i reason p0 f)).post (.streamState i .halted .allowance st.clamped st.raised st.start st.stop)))

/-- R60, R62, R63, R66, R68: at the boundary that begins frame p, with no cue due there, a RUNNING PLAY stream whose E is p becomes IDLE with
its ring cleared. Otherwise the slot of p is consumed; a written frame heard becomes the last output value and ends the gap run, and
a frame not written counts as a gap and leaves the last output value. A report mark at p is taken. The end of a run posts STREAM_STATE with its reason,
a gap frame STREAM_GAP, a mark taken PLAYED, each stamped p + 1 (R45, R64, R66). R180: while no STREAM_GAP of the stream waits, one with position p and a
total of 1 joins the queue, and while one waits its total goes up by 1 and its position is kept; a PLAYED has the position p, whether it joins or
updates the one that waits. Model's choice: the mark that E was raised in STREAM_STATE (assumption log, 27). -/
def Obligations.PlayStreamAtABoundary : Prop :=
  ∀ (s : State) (mCycles : Nat) (wire : List (List SlotWord)) (i : Nat) (st : Stream), s.hub.framesRun → s.hub.noCueDue → i < 16 →
    s.hub.stream i = some st → st.desc.direction = .play →
    ∃ (h : Hub) (st' : Stream), exec (.frameBoundary mCycles wire) s = s.becomes h ∧ h.stream i = some st' ∧ st'.desc = st.desc ∧
      (st.state ≠ .armed ∧ st.state ≠ .running → st' = st) ∧
      (st.state = .running → st.stop = some s.hub.clock.n → st'.state = .idle ∧ st'.written = [] ∧ st'.marks = [] ∧
        st'.lastOut = st.lastOut ∧ st'.start = st.start ∧ st'.stop = st.stop ∧
        ∃ l : Link, Link.Reports s.hub.link l ∧ Link.Reports (l.post (s.hub.clock.n + 1)
          (.streamState i .idle st.stopReason st.clamped st.raised st.start st.stop)) h.link) ∧
      ((st.state = .armed ∨ st.state = .running ∧ st.stop ≠ some s.hub.clock.n) →
        st'.state = st.state ∧ cellGet st'.written (s.hub.clock.n % st.desc.capacity) = none ∧
        (∀ k, k ≠ s.hub.clock.n % st.desc.capacity → cellGet st'.written k = cellGet st.written k) ∧
        (∀ m rest, st.marks = m :: rest → (st'.marks = if m = s.hub.clock.n then rest else st.marks) ∧
          (m = s.hub.clock.n → Link.Joined s.hub.link h.link (s.hub.clock.n + 1) (.played i s.hub.clock.n) ∧
            ∀ q, Link.Updated s.hub.link h.link (s.hub.clock.n + 1) (.played i q) (.played i s.hub.clock.n))) ∧
        (st.state = .armed ∨ st.muted = true → st'.lastOut = st.lastOut ∧ st'.gapRun = st.gapRun) ∧
        (∀ a, st.state = .running → st.muted = false → st.start = some a → a ≤ s.hub.clock.n →
          (cellGet st.written (s.hub.clock.n % st.desc.capacity) = some s.hub.clock.n →
            st'.gapRun = 0 ∧ st'.lastOut = (numbers 0 st.desc.map.length).map (fun c =>
              poolRead s.hub.engine.pool (st.frameWord s.hub.clock.n + c))) ∧
          (cellGet st.written (s.hub.clock.n % st.desc.capacity) ≠ some s.hub.clock.n →
            st'.gapRun = min (st.gapRun + 1) 65535 ∧ st'.lastOut = st.lastOut ∧
            Link.Joined s.hub.link h.link (s.hub.clock.n + 1) (.streamGap i s.hub.clock.n 1) ∧
            ∀ q total, Link.Updated s.hub.link h.link (s.hub.clock.n + 1) (.streamGap i q total)
              (.streamGap i q (min (total + 1) 4294967295)))))

/-- R71 to R73, R79, R81: at the boundary that begins frame p, with no cue due there, an ARMED CAPTURE stream (without a level watch, which could
trigger it there, R170) and a RUNNING one write frame p: each channel's word of the pool then holds the sample that the port yields for the slot the
map names, and 0 for a port that is none of CAPTURE role or a slot it lacks; the not-running mark of the slot of p is set exactly when a
port of the map is not RUNNING, and every other mark stays. A word of the pool that is in no CAPTURE stream's frame p stays. A RUNNING stream whose E is
p becomes DRAINING, posts STREAM_STATE and writes nothing; one whose ring is full drops its oldest block, sets DISCONTINUITY and is charged, and is
HALTED, with STREAM_STATE, when its allowance is exhausted. No two streams' frames share a word (the last premise; R36).
Model's choice: the mark that E was raised in STREAM_STATE (assumption log, 27). -/
def Obligations.CaptureAtABoundary : Prop :=
  ∀ (s : State) (mCycles : Nat) (wire : List (List SlotWord)), s.hub.framesRun → s.hub.noCueDue →
    ∃ h : Hub, exec (.frameBoundary mCycles wire) s = s.becomes h ∧
      (∀ w, (∀ j st c, j < 16 → s.hub.stream j = some st → st.desc.direction = .capture → c < st.desc.map.length →
          w ≠ st.frameWord s.hub.clock.n + c) → poolRead h.engine.pool w = poolRead s.hub.engine.pool w) ∧
      ∀ (i : Nat) (st : Stream), i < 16 → s.hub.stream i = some st → st.desc.direction = .capture →
        (st.state = .armed → st.desc.watch = none) → (∀ e ∈ st.desc.map, e.port < 6) →
        ∃ st' : Stream, h.stream i = some st' ∧ st'.desc = st.desc ∧ st'.firstPage = st.firstPage ∧
          (st.state = .idle ∨ st.state = .draining ∨ st.state = .halted → st' = st) ∧
          (st.state = .armed → st'.state = .armed ∧ st'.ringHigh = s.hub.clock.n + 1 ∧
            st'.ringLow = max st.ringLow (s.hub.clock.n + 1 - st.desc.capacity)) ∧
          (st.state = .running → st.stop = some s.hub.clock.n → st' = { st with state := .draining } ∧
            ∃ l : Link, Link.Reports s.hub.link l ∧ Link.Reports (l.post (s.hub.clock.n + 1)
              (.streamState i .draining st.stopReason st.clamped st.raised st.start st.stop)) h.link) ∧
          (∀ d, st.state = .running → st.stop ≠ some s.hub.clock.n → st.dp = some d →
            (d + st.desc.capacity ≠ s.hub.clock.n → st'.state = .running ∧ st'.dp = some d ∧ st'.ringHigh = s.hub.clock.n + 1 ∧
              st'.disc = st.disc ∧ st'.allowance = st.allowance) ∧
            (∀ b, st.desc.block = some b → d + st.desc.capacity = s.hub.clock.n → st'.dp = some (d + b) ∧ st'.disc = true ∧
              st'.allowance = st.allowance - 1 ∧
              (¬ (st.allowance = 1 ∧ st.desc.reload ≠ 0) → st'.state = .running) ∧
              (st.allowance = 1 → st.desc.reload ≠ 0 → st'.state = .halted ∧
                ∃ l : Link, Link.Reports s.hub.link l ∧ Link.Reports (l.post (s.hub.clock.n + 1)
                  (.streamState i .halted .allowance st.clamped st.raised st.start st.stop)) h.link))) ∧
          ((st.state = .armed ∨ st.state = .running ∧ st.stop ≠ some s.hub.clock.n) →
            (s.hub.clock.n % st.desc.capacity ∈ st'.notRunning ↔
              ∃ e ∈ st.desc.map, ¬ ∃ pt, h.port e.port = some pt ∧ pt.state = .running) ∧
            (∀ k, k ≠ s.hub.clock.n % st.desc.capacity → (k ∈ st'.notRunning ↔ k ∈ st.notRunning)) ∧
            ((∀ j st₂ c c₂, j < 16 → j ≠ i → s.hub.stream j = some st₂ → st₂.desc.direction = .capture → c < st.desc.map.length →
                c₂ < st₂.desc.map.length → st₂.frameWord s.hub.clock.n + c₂ ≠ st.frameWord s.hub.clock.n + c) →
              ∀ c e, st.desc.map[c]? = some e →
                (∀ pt, h.port e.port = some pt → pt.role = .capture →
                  poolRead h.engine.pool (st.frameWord s.hub.clock.n + c) = pt.yielded.getD e.slot 0) ∧
                ((∀ pt, h.port e.port = some pt → pt.role ≠ .capture) →
                  poolRead h.engine.pool (st.frameWord s.hub.clock.n + c) = 0)))

/-- R178, R80, R83, R85: the transmit arbiter takes the oldest reply when one waits; otherwise an offered capture block, unless its count stands at
4 and a notice waits; otherwise the oldest notice, which carries LOST and clears it. A block's frames leave the stream, and a FINAL
block makes it IDLE. Model's choices: the STREAM_STATE of the FINAL block carries the mark that E was raised (assumption log, 27), and the bits of
every flags byte without a meaning are 0 (56). While a message is being sent, and while the link is not configured, the arbiter takes nothing (R178, R184).
R78, R82, R178: the block that the arbiter finds offered is one that its stream offers, and no stream offers one with a lower start, nor, at the same
start, a stream of a lower number. R85, R86: its body holds stream, flags, frame count, start and the link-frame mark, then the frames in position
order and map order, each sample in the host format. R179: an IN transfer is the message in packets of 512 bytes and a last, shorter one.
Chapter 13's header and bodies (R179, R181, R185, R186): a reply is kind byte 0x69, the code and tag of its command, the body's length, and the status with
the result fields when OK, the byte index when NO_ACK_DATA and nothing otherwise; a notice is kind byte 0x4B, its notice kind, tag 0, the
length, LOST, the stamp and the fields of its kind; a capture block is kind byte 0x5A with code and tag 0. -/
def Obligations.TransmitTake : Prop :=
  (∀ r : Reply, ∃ (status : Nat) (tail : List Byte),
    r.bytes = [0x69, r.code] ++ bytesOf 2 r.tag.toNat ++ bytesOf 2 (min (tail.length + 1) 65535) ++ oneByte status :: tail ∧
    (r.status = .ok → status = 0 ∧ tail = r.fields) ∧ (∀ k, r.status = .noAckData k → status = 12 ∧ tail = [oneByte k]) ∧
    ∀ p ∈ [(Status.malformed, 1), (.unknownCommand, 2), (.badValue, 3), (.noSuch, 4), (.busy, 5), (.full, 7), (.conflict, 8), (.late, 9),
        (.aborted, 10), (.noAckAddress, 11), (.busStuck, 13), (.noResponse, 14)],
      r.status = p.1 → status = p.2 ∧ tail = []) ∧
  (∀ (w : Notice) (lost : Bool) (opt : Nat → Option Nat → List Byte),
    (∀ n o, opt n o = match o with
      | none => List.replicate (n + 1) 0
      | some v => 1 :: bytesOf n v) →
    ∃ (kind : Nat) (fields : List Byte),
      w.bytes lost = [0x4B, oneByte kind, 0, 0] ++ bytesOf 2 (fields.length + 7) ++ [flagByte lost] ++ bytesOf 6 w.stamp ++ fields ∧
      match w.body with
      | .clockState st src rate det reason => kind = 1 ∧ fields =
          [oneByte st.code, oneByte src.code, oneByte rate.code, oneByte ((det.map Rate.code).getD 255), oneByte reason.code]
      | .streamState i st reason clamped raised a e => kind = 2 ∧ fields = [oneByte i, oneByte st.code, oneByte reason.code,
          oneByte ((if clamped then 1 else 0) + if raised then 2 else 0)] ++ opt 6 a ++ opt 6 e
      | .streamGap i first total => kind = 3 ∧ fields = [oneByte i] ++ bytesOf 6 first ++ bytesOf 4 total
      | .blockRefused i reason start frames => kind = 4 ∧ fields = [oneByte i, oneByte reason.code] ++ bytesOf 6 start ++ bytesOf 4 frames
      | .played i p => kind = 5 ∧ fields = [oneByte i] ++ bytesOf 6 p
      | .cueFired tag due fire r index late skipped => kind = 6 ∧ fields = bytesOf 2 tag ++ bytesOf 6 due ++ bytesOf 6 fire ++
          [oneByte r.code, oneByte index, oneByte ((if late then 1 else 0) + if skipped then 2 else 0)]
      | .cueFlushed count cause => kind = 7 ∧ fields = [oneByte count, oneByte cause.code]
      | .portState i st reason entry index => kind = 8 ∧ fields = [oneByte i, oneByte st.code, oneByte reason.code] ++ opt 1 entry ++ [oneByte index]
      | .nodeState a st reason => kind = 9 ∧ fields = [oneByte a, oneByte st.code, oneByte reason.code]
      | .surfaceEvent a c k v stamp bound => kind = 10 ∧ (-127 ≤ v → v ≤ 1023 → fields = [oneByte a, oneByte c, oneByte k.code] ++
          bytesOf 2 (if v < 0 then v + 65536 else v).toNat ++ bytesOf 6 stamp ++ [flagByte bound])
      | .clip m p => kind = 11 ∧ fields = [oneByte m] ++ bytesOf 6 p
      | .linkError k => kind = 12 ∧ fields = [oneByte k.code]) ∧
  (∀ h : Hub, h.engine.streams.length = 16 → (∀ i st, h.stream i = some st → st.state = .draining → st.stop ≠ none) →
    ∀ o, h.bestOffer = some o ↔ (∃ st, h.stream o.stream = some st ∧ st.offersBlock o.stream h.clock.n o) ∧
      ∀ i st o', h.stream i = some st → st.offersBlock i h.clock.n o' → o.start < o'.start ∨ o.start = o'.start ∧ o.stream ≤ i) ∧
  (∀ (st : Stream) (o : Offer) (mark : LinkMark) (pool : List (Nat × Sample)), ∃ (flags : Nat) (data : List Byte),
    captureBody st o mark pool = [oneByte o.stream, oneByte flags] ++ bytesOf 2 o.frames ++ bytesOf 6 o.start ++
      bytesOf 2 mark.frame.toNat ++ bytesOf 6 mark.position ++ data ∧ flags < 8 ∧
    (flags % 2 = 1 ↔ o.final = true) ∧ (flags / 2 % 2 = 1 ↔ st.disc = true) ∧
    (flags / 4 = 1 ↔ ∃ p, o.start ≤ p ∧ p < o.start + o.frames ∧ p % st.desc.capacity ∈ st.notRunning) ∧
    data.length = o.frames * st.desc.map.length * st.desc.format.width ∧
    ∀ k c, k < o.frames → c < st.desc.map.length →
      (data.drop ((k * st.desc.map.length + c) * st.desc.format.width)).take st.desc.format.width =
        hostSample st.desc.format (poolRead pool (st.frameWord (o.start + k) + c))) ∧
  (∀ m : Sending, m.packets.flatten = m.bytes ∧ (∀ k p, m.packets[k]? = some p → k + 1 < m.packets.length → p.length = 512) ∧
    ∃ p, m.packets.getLast? = some p ∧ p.length < 512 ∧ (p = [] ↔ m.bytes.length % 512 = 0)) ∧
  (∀ s : State, (s.hub.resetN = false ∨ s.hub.link.configured = false ∨ s.hub.link.sending ≠ none) → exec .transmitTake s = .next s) ∧
  ∀ s : State, s.hub.resetN = true → s.hub.link.configured = true → s.hub.link.sending = none →
    (∀ r rest, s.hub.link.replies = r :: rest → exec .transmitTake s =
      s.becomes (s.hub.withLink { s.hub.link with replies := rest, sending := some ⟨.reply, r.bytes⟩ })) ∧
    (∀ w rest, s.hub.link.replies = [] → s.hub.link.notices = w :: rest → (s.hub.bestOffer = none ∨ s.hub.link.count = 4) →
      exec .transmitTake s = s.becomes (s.hub.withLink
        { s.hub.link with notices := rest, lost := false, count := 0, sending := some ⟨.notice, w.bytes s.hub.link.lost⟩ })) ∧
    (s.hub.link.replies = [] → s.hub.link.notices = [] → s.hub.bestOffer = none → exec .transmitTake s = .next s) ∧
    ∀ o st, s.hub.link.replies = [] → s.hub.bestOffer = some o → (s.hub.link.notices = [] ∨ s.hub.link.count ≠ 4) →
      s.hub.stream o.stream = some st →
      ∃ (h : Hub) (st' : Stream), exec .transmitTake s = s.becomes h ∧ Hub.Within [.engine, .link, .linkState] s.hub h ∧
        (∀ body, body = captureBody st o s.hub.link.mark s.hub.engine.pool →
          h.link.sending = some ⟨.captureBlock, [0x5A, 0, 0, 0] ++ bytesOf 2 (min body.length 65535) ++ body⟩) ∧
        h.link.count = min 4 (s.hub.link.count + 1) ∧ h.stream o.stream = some st' ∧ st'.dp = some (o.start + o.frames) ∧
        st'.disc = false ∧ st'.state = (if o.final then .idle else st.state) ∧
        (o.final = false → h.link.notices = s.hub.link.notices) ∧
        (o.final = true → h.link.notices = (s.hub.link.post s.hub.clock.n
          (.streamState o.stream .idle st.stopReason st.clamped st.raised st.start st.stop)).notices)

/-! ### Chapter 6: the cue queue -/

/-- R92, R93, R94: POST_CUE of an entry in range whose tag is not held. On time it enters the list behind every entry due at or before its due
position, or is refused FULL; late it is refused LATE under DROP, and under FIRE it fires at acceptance, unless it would stay in a full list
(FULL). A held tag is refused CONFLICT.
R91, R94, R101, R102, R105: a firing, late at acceptance or by a binding: afterwards the list is the list before with the entry, if it repeats, at its next due
position behind every entry due at or before it; and, for any action but a CONVERTER_WRITE, the action has told the Link Interface what it has to tell
before CUE_FIRED is posted, when notify is set or the result is not OK, with the due and the fire position, LATE and SKIPPED. Model's choice: its
byte index is 0 (assumption log, 52). -/
def Obligations.PostCue : Prop :=
  (∀ (h : Hub) (e : CueEntry) (pos fire : Nat) (late : Bool),
    (e.next fire = none → (h.fireCue e pos fire late).cues = h.cues) ∧
    (∀ e₁, e.next fire = some e₁ → ∃ before after : List CueEntry, h.cues = before ++ after ∧ (∀ c ∈ before, c.due ≤ e₁.due) ∧
      (∀ c, after.head? = some c → e₁.due < c.due) ∧ (h.fireCue e pos fire late).cues = before ++ e₁ :: after) ∧
    ((∀ a data, e.action ≠ .converterWrite a data) → ∃ (l : Link) (r : CueResult), Link.Reports h.link l ∧
      (h.fireCue e pos fire late).link =
        if e.notify = true ∨ r ≠ .ok then l.post h.clock.n (.cueFired e.tag e.due fire r 0 late (e.skips fire)) else l)) ∧
  ∀ (s : State) (tag : Tag) (e : CueEntry), s.hub.Ready → e.fits →
    ((∃ c ∈ s.hub.cues, c.tag = e.tag) → exec (.postCue tag e.bytes) s = s.answered s.hub 0x30 tag .conflict []) ∧
    ((∀ c ∈ s.hub.cues, c.tag ≠ e.tag) →
      (s.hub.clock.n ≤ e.due →
        (64 ≤ s.hub.cues.length → exec (.postCue tag e.bytes) s = s.answered s.hub 0x30 tag .full []) ∧
        (s.hub.cues.length < 64 → ∃ before after : List CueEntry, s.hub.cues = before ++ after ∧ (∀ c ∈ before, c.due ≤ e.due) ∧
          (∀ c, after.head? = some c → e.due < c.due) ∧
          exec (.postCue tag e.bytes) s =
            s.answered (s.hub.withCues (before ++ e :: after)) 0x30 tag .ok (0 :: optBytes 6 (some e.due)))) ∧
      (e.due < s.hub.clock.n →
        (e.policy = .drop → exec (.postCue tag e.bytes) s = s.answered s.hub 0x30 tag .late []) ∧
        (e.policy = .fire → e.next s.hub.clock.n ≠ none → 64 ≤ s.hub.cues.length →
          exec (.postCue tag e.bytes) s = s.answered s.hub 0x30 tag .full []) ∧
        (e.policy = .fire → (e.next s.hub.clock.n = none ∨ s.hub.cues.length < 64) →
          exec (.postCue tag e.bytes) s = s.answered (s.hub.fireCue e e.due s.hub.clock.n true) 0x30 tag .ok
            (1 :: optBytes 6 ((e.next s.hub.clock.n).map CueEntry.due)))))

/-- R96 to R102, R105: what a firing does, by its action and the state of the thing it names, at any fire position: late at acceptance (R94) or by the
binding action CUE_FIRE (R105), with a repeat and without. With the action done CUE_FIRED is posted, when notify is set or the result is not OK, with
the due and the fire position, LATE and SKIPPED; a CONVERTER_WRITE that finds room hands them over with its job instead. Then the entry, if it repeats, is in
the list behind every entry due at or before its next due position. The trigger and the stop are those of TriggerStream and StopStream, with the
position of the firing as T and as e, and its next due position is that of CuesAtABoundary.
R94: a late POST_CUE under FIRE is such a firing, with its due position as T and as e, and replies with the next due position.
Model's choice: the byte index of the notice is 0 (assumption log, 52). -/
def Obligations.LateCueActions : Prop :=
  (∀ (s : State) (tag : Tag) (e : CueEntry), s.hub.Ready → e.fits → e.due < s.hub.clock.n → e.policy = .fire →
    (∀ c ∈ s.hub.cues, c.tag ≠ e.tag) → (e.next s.hub.clock.n = none ∨ s.hub.cues.length < 64) →
    exec (.postCue tag e.bytes) s = s.answered (s.hub.fireCue e e.due s.hub.clock.n true) 0x30 tag .ok
      (1 :: optBytes 6 ((e.next s.hub.clock.n).map CueEntry.due))) ∧
  ∀ (h : Hub) (e : CueEntry) (pos fire : Nat) (late : Bool) (list : List CueEntry),
    (e.next fire = none → list = h.cues) →
    (∀ e₁, e.next fire = some e₁ → ∃ before after : List CueEntry, h.cues = before ++ after ∧ (∀ c ∈ before, c.due ≤ e₁.due) ∧
      (∀ c, after.head? = some c → e₁.due < c.due) ∧ list = before ++ e₁ :: after) →
    (∀ a data, e.action = .converterWrite a data →
      (h.bus.room = true → h.fireCue e pos fire late =
        (h.withBus (h.bus.add (.cue e.tag e.due fire e.notify late (e.skips fire) a data))).withCues list) ∧
      (h.bus.room = false → h.fireCue e pos fire late =
        (h.post (.cueFired e.tag e.due fire .queueFull 0 late (e.skips fire))).withCues list)) ∧
    ((∀ a data, e.action ≠ .converterWrite a data) →
      ∃ (g : Hub) (r : CueResult), h.fireCue e pos fire late =
          (if e.notify = true ∨ r ≠ .ok then g.post (.cueFired e.tag e.due fire r 0 late (e.skips fire)) else g).withCues list ∧
        (∀ i, (e.action = .streamTrigger i ∨ e.action = .streamStop i ∨ ∃ on, e.action = .streamMute i on) → h.stream i = none →
          r = .noSuch ∧ g = h) ∧
        (∀ i st, h.stream i = some st →
          (e.action = .streamTrigger i → st.state = .armed → r = .ok ∧ g = h.trigger i pos fire .triggerCue) ∧
          (e.action = .streamTrigger i → st.state ≠ .armed → r = .notApplicable ∧ g = h) ∧
          (e.action = .streamStop i → st.state = .draining → r = .notApplicable ∧ g = h) ∧
          (e.action = .streamStop i → st.state ≠ .draining → r = .ok ∧ g = (h.stopStream i pos fire false).1) ∧
          ∀ on, e.action = .streamMute i on →
            (st.desc.direction = .play ∧ (st.state = .armed ∨ st.state = .running) → r = .ok ∧ g = h.putStream i { st with muted := on }) ∧
            (¬ (st.desc.direction = .play ∧ (st.state = .armed ∨ st.state = .running)) → r = .notApplicable ∧ g = h)) ∧
        (∀ a c k v n, e.action = .surfaceWrite a c k v → h.node a = some n →
          (n.state ≠ .online → r = .nodeNotOnline ∧ g = h) ∧
          (n.state = .online → (∀ w ∈ n.queue, ¬ (w.control = c ∧ w.kind = k)) →
            (n.queue.length < 32 → r = .ok ∧ g = h.putNode a { n with queue := n.queue ++ [⟨c, k, v, false, false⟩] }) ∧
            (32 ≤ n.queue.length → r = .queueFull ∧ g = h)) ∧
          (n.state = .online → (∃ w ∈ n.queue, w.control = c ∧ w.kind = k) → r = .ok ∧
            g = h.putNode a { n with queue := n.queue.map (fun w => if w.control = c ∧ w.kind = k then
              { w with value := v, replaced := w.replaced || w.inFlight } else w) })) ∧
        (∀ o en out, e.action = .clockOutput o en → h.out o = some out → r = .ok ∧ g = h.putOut o (out.setEnable en)) ∧
        (∀ u t, h.tally u = some t →
          (e.action = .tallyStop u → r = .ok ∧ g = h.putTally u t.halt) ∧
          (e.action = .tallyRun u → (t.settings = none ∨ t.state ≠ .stopped) → r = .notApplicable ∧ g = h) ∧
          ∀ c, e.action = .tallyRun u → t.settings = some c → t.state = .stopped → r = .ok ∧ g = h.putTally u (t.evaluated c fire)) ∧
        (e.action = .clearClips → r = .ok ∧ g = h.withMeters (h.meters.map (fun m => { m with clipped := false }))))

/-- R95, R102: the boundary that begins frame p fires exactly the entries due at p: afterwards the list holds the entries that were not due and
the repeats of those that were. A due TALLY RUN that fires alone is evaluated with now = p, and its pin follows from that boundary (R96).
R91, R95: they fire in list order, CUE_FIRED of an earlier entry before that of a later one, and the list is in order of due position, at each position the entries
held first, then the repeats put back, in the order of their firings. Every block then does its work as at a boundary with no cue due, on the state that
the actions leave, in which a block that no due action names is as before.
R102: an entry that fires at position f returns, if it repeats at all, at the first repetition above f: with its repeats unchanged when
endless, reduced by the number of intervals moved otherwise, and not at all when they do not reach or the position would pass 2^48 − 1.
SKIPPED is set when more than one interval was moved.
R61, R74, R96 to R101: a cue due at p that fires alone acts before frame p is settled or written, with now = p: a triggered PLAY stream plays frame p, a
triggered CAPTURE stream writes it as RUNNING, a stopped one does neither; mute, control bus, surface, clock output, tally and clip actions have reached
their blocks. CUE_FIRED is posted, stamped p + 1, when notify is set or the result is not OK. Model's choices: its
byte index is 0 (assumption log, 52); and since every block works on the state that the actions leave, a cue comes before a level watch that is met on the
same stream at the same boundary, an order which R96 and R170 leave open (22). -/
def Obligations.CuesAtABoundary : Prop :=
  (∀ (s : State) (mCycles : Nat) (wire : List (List SlotWord)), s.hub.framesRun → s.hub.cuesFit →
     ∃ h : Hub, exec (.frameBoundary mCycles wire) s = s.becomes h ∧
       (∀ c : CueEntry, c ∈ h.cues ↔ (c ∈ s.hub.cues ∧ c.due ≠ s.hub.clock.n) ∨
         ∃ e ∈ s.hub.cues, e.due = s.hub.clock.n ∧ e.next s.hub.clock.n = some c) ∧
       h.cues.Pairwise (fun a b => a.due ≤ b.due) ∧
       (∀ q, h.cues.filter (fun c => decide (c.due = q)) =
         s.hub.cues.filter (fun c => decide (c.due = q) && decide (c.due ≠ s.hub.clock.n)) ++
           ((s.hub.cues.filter (fun c => decide (c.due = s.hub.clock.n))).filterMap (fun e => e.next s.hub.clock.n)).filter
             (fun c => decide (c.due = q))) ∧
       (∀ (front between rest : List CueEntry) (e e' : CueEntry), s.hub.cues = front ++ e :: between ++ e' :: rest →
         e.due = s.hub.clock.n → e'.due = s.hub.clock.n → e.notify = true → e'.notify = true →
         (∀ a data, e.action ≠ .converterWrite a data ∧ e'.action ≠ .converterWrite a data) →
         ∃ (l l₂ : Link) (r r' : CueResult), Link.Reports s.hub.link l ∧
           Link.Reports (l.post (s.hub.clock.n + 1) (.cueFired e.tag e.due e.due r 0 false (e.skips e.due))) l₂ ∧
           Link.Reports (l₂.post (s.hub.clock.n + 1) (.cueFired e'.tag e'.due e'.due r' 0 false (e'.skips e'.due))) h.link) ∧
       (∃ g h' : Hub, exec (.frameBoundary mCycles wire) ⟨g, s.pending⟩ = .next ⟨h', s.pending⟩ ∧ h = { h' with link := h.link } ∧
         g.framesRun ∧ g.noCueDue ∧ Hub.Within cueBlocks s.hub g ∧ ∀ due : CueAction → Prop,
         (∀ a, due a ↔ ∃ e ∈ s.hub.cues, e.due = s.hub.clock.n ∧ e.action = a) →
         ((∀ i, ¬ due (.streamTrigger i) ∧ ¬ due (.streamStop i) ∧ ∀ on, ¬ due (.streamMute i on)) → g.engine = s.hub.engine) ∧
         ((∀ a data, ¬ due (.converterWrite a data)) → g.bus = s.hub.bus) ∧
         ((∀ a c k v, ¬ due (.surfaceWrite a c k v)) → g.surface = s.hub.surface) ∧
         ((∀ o en, ¬ due (.clockOutput o en)) → g.outputs = s.hub.outputs) ∧
         ((∀ u, ¬ due (.tallyRun u) ∧ ¬ due (.tallyStop u)) → g.tallies = s.hub.tallies) ∧
         (¬ due .clearClips → g.meters = s.hub.meters)) ∧
       ∀ (e : CueEntry) (rest : List CueEntry) (u : Nat) (t : Tally) (c : TallySettings), s.hub.cues = e :: rest →
         e.due = s.hub.clock.n → (∀ d ∈ rest, d.due ≠ s.hub.clock.n) → e.action = .tallyRun u → s.hub.tally u = some t →
         t.state = .stopped → t.settings = some c → c.fits →
         ∃ t', h.tally u = some t' ∧ (t'.state, t'.edge) = c.evaluate s.hub.clock.n ∧ t'.settings = some c ∧
           t'.pin = c.polarity.level (decide (t'.state = .active))) ∧
  (∀ (e : CueEntry) (f : Nat),
     ((e.interval = 0 ∨ e.repeats = 0) → e.next f = none ∧ e.skips f = false) ∧
     ∀ k, e.interval ≠ 0 → e.repeats ≠ 0 → 1 ≤ k → f < e.due + k * e.interval → (∀ j, 1 ≤ j → j < k → e.due + j * e.interval ≤ f) →
       (e.skips f = true ↔ 1 < k) ∧
       e.next f = (if e.due + k * e.interval ≤ 281474976710655 then
         (if e.repeats = 65535 then some { e with due := e.due + k * e.interval }
          else if k ≤ e.repeats then some { e with due := e.due + k * e.interval, repeats := e.repeats - k } else none) else none)) ∧
  (∀ (s : State) (mCycles : Nat) (wire : List (List SlotWord)) (e : CueEntry) (rest : List CueEntry) (p : Nat), s.hub.framesRun →
     s.hub.cuesFit → s.hub.cues = e :: rest → p = s.hub.clock.n → e.due = p → (∀ d ∈ rest, d.due ≠ p) → e.fits →
     s.hub.descriptorsFit → s.hub.tablesFit →
     ∃ h : Hub, exec (.frameBoundary mCycles wire) s = s.becomes h ∧ ∀ fired : CueResult → Prop,
       (∀ r, fired r ↔ ∃ l : Link, Link.Reports s.hub.link l ∧
         Link.Reports (l.post (p + 1) (.cueFired e.tag p p r 0 false (e.skips p))) h.link) →
       (∀ i, (e.action = .streamTrigger i ∨ e.action = .streamStop i ∨ ∃ on, e.action = .streamMute i on) → s.hub.stream i = none →
         fired .noSuch) ∧
       (∀ i st, s.hub.stream i = some st → ∃ st', h.stream i = some st' ∧
         (e.action = .streamTrigger i → st.state ≠ .armed → fired .notApplicable) ∧
         (e.action = .streamTrigger i → st.state = .armed → (e.notify = true → fired .ok) ∧
           (st.desc.direction = .play → st'.state = .running ∧ st'.start = some p ∧ st'.stop = countedEnd st.desc.run p ∧
             (st.muted = false → cellGet st.written (p % st.desc.capacity) = some p → st'.gapRun = 0 ∧
               st'.lastOut = (numbers 0 st.desc.map.length).map (fun c => poolRead s.hub.engine.pool (st.frameWord p + c)))) ∧
           (st.desc.direction = .capture → ∀ (a b r k : Nat), st.arm = some a → st.desc.block = some b → st.desc.preRoll = some r →
             (k : Int) = max (max ((p : Int) - r) a) ((p : Int) - st.desc.capacity + b) →
             (∀ x, countedEnd st.desc.run k = some x → p < x) → a ≤ p → st'.state = .running ∧ st'.start = some k ∧ st'.dp = some k ∧
               st'.stop = countedEnd st.desc.run k ∧ st'.ringHigh = p + 1)) ∧
         (e.action = .streamStop i → st.state = .draining → fired .notApplicable ∧ st' = st) ∧
         (e.action = .streamStop i → st.state = .running → (∀ x, st.stop = some x → p < x) → (e.notify = true → fired .ok) ∧
           st'.start = st.start ∧
           (st.desc.direction = .play → st'.stop = some p ∧ st'.state = .idle ∧ st'.written = [] ∧ st'.lastOut = st.lastOut) ∧
           (∀ d, st.desc.direction = .capture → st.dp = some d → d ≤ p →
             st'.stop = some p ∧ st'.state = .draining ∧ st'.ringHigh = st.ringHigh)) ∧
         ∀ on, e.action = .streamMute i on →
           (st.desc.direction = .play → (st.state = .armed ∨ st.state = .running) → (e.notify = true → fired .ok) ∧ st'.muted = on) ∧
           (¬ (st.desc.direction = .play ∧ (st.state = .armed ∨ st.state = .running)) → fired .notApplicable)) ∧
       (∀ a data, e.action = .converterWrite a data →
         (s.hub.bus.room = true → h.bus = s.hub.bus.add (.cue e.tag p p e.notify false (e.skips p) a data)) ∧
         (s.hub.bus.room = false → h.bus = s.hub.bus ∧ fired .queueFull)) ∧
       (∀ a c k v n, e.action = .surfaceWrite a c k v → s.hub.node a = some n →
         (n.state ≠ .online → fired .nodeNotOnline) ∧
         (n.state = .online → (n.queue.length < 32 ∨ ∃ w ∈ n.queue, w.control = c ∧ w.kind = k) → (e.notify = true → fired .ok) ∧
           ∃ n' w, h.node a = some n' ∧ w ∈ n'.queue ∧ w.control = c ∧ w.kind = k ∧ (k ≠ .meter → w.value = v))) ∧
       (∀ o en, e.action = .clockOutput o en → (e.notify = true → fired .ok) ∧ ∃ o', h.out o = some o' ∧ o'.enable = en) ∧
       (∀ u t, e.action = .tallyStop u → s.hub.tally u = some t → (e.notify = true → fired .ok) ∧
         ∃ t', h.tally u = some t' ∧ t'.state = .stopped ∧ t'.pin = t'.level ∧
           (t.state ≠ .stopped → t'.edge = none ∧ t'.settings = t.staged.or t.settings ∧ t'.staged = none)) ∧
       (e.action = .clearClips → (e.notify = true → fired .ok) ∧
         ∀ j m m', s.hub.meter j = some m → m.source = none → h.meter j = some m' → m'.clipped = false))

/-- R103, R106: CANCEL_CUE removes the entry with its tag and keeps the order of the others, or replies NO_SUCH, or BAD_VALUE for the tag 0;
FLUSH_CUES empties the list, posts CUE_FLUSHED and replies with the number removed. -/
def Obligations.CancelAndFlushCues : Prop :=
  ∀ (s : State) (tag : Tag) (t : Nat), s.hub.Ready → t < 65536 →
    (t = 0 → exec (.cancelCue tag (bytesOf 2 t)) s = s.answered s.hub 0x31 tag .badValue []) ∧
    (t ≠ 0 → (∀ c ∈ s.hub.cues, c.tag ≠ t) → exec (.cancelCue tag (bytesOf 2 t)) s = s.answered s.hub 0x31 tag .noSuch []) ∧
    (t ≠ 0 → (∃ c ∈ s.hub.cues, c.tag = t) → exec (.cancelCue tag (bytesOf 2 t)) s =
      s.answered (s.hub.withCues (s.hub.cues.filter (fun c => decide (c.tag ≠ t)))) 0x31 tag .ok []) ∧
    exec (.flushCues tag []) s =
      s.answered ((s.hub.withCues []).post (.cueFlushed s.hub.cues.length .command)) 0x33 tag .ok [oneByte s.hub.cues.length]

/-! ### Chapter 7: converter ports -/

/-- R111, R112: CONFIGURE_PORT replaces role, slot count and settle count of an OFF port, unless a defined stream's map names the port and the role
would change, or names a slot the new count no longer has (CONFLICT). SET_INIT_LIST replaces the list of a port in OFF or FAULT. In any
other state both are refused BUSY. -/
def Obligations.PortSettings : Prop :=
  ∀ (s : State) (tag : Tag) (i : Nat) (pt : Port), s.hub.Ready → i < 6 → s.hub.port i = some pt →
    (∀ (role : Role) (slots settle : Nat) (body : List Byte), (slots = 2 ∨ slots = 4 ∨ slots = 8) → settle < 65536 →
      body = [oneByte i, oneByte role.code, oneByte slots] ++ bytesOf 2 settle →
      (pt.state ≠ .off → exec (.configurePort tag body) s = s.answered s.hub 0x40 tag .busy []) ∧
      (pt.state = .off → ∀ clash : Prop,
        (clash ↔ ∃ st, some st ∈ s.hub.engine.streams ∧ ∃ e ∈ st.desc.map, e.port = i ∧ (role ≠ pt.role ∨ slots < pt.slots ∧ slots ≤ e.slot)) →
        (clash → exec (.configurePort tag body) s = s.answered s.hub 0x40 tag .conflict []) ∧
        (¬ clash → ∃ pt', exec (.configurePort tag body) s = s.answered (s.hub.putPort i pt') 0x40 tag .ok [] ∧
          pt' = { pt with role := role, slots := slots, settle := settle, sdOut := pt'.sdOut } ∧
          (role = pt.role → pt'.sdOut = pt.sdOut)))) ∧
    ∀ entries : List InitEntry, entries.length ≤ 16 → (∀ e ∈ entries, e.addr ≤ 127) →
      (pt.state = .off ∨ pt.state = .fault →
        exec (.setInitList tag ([oneByte i, oneByte entries.length] ++ entries.flatMap InitEntry.bytes)) s =
          s.answered (s.hub.putPort i { pt with initList := entries }) 0x41 tag .ok []) ∧
      (pt.state ≠ .off → pt.state ≠ .fault →
        exec (.setInitList tag ([oneByte i, oneByte entries.length] ++ entries.flatMap InitEntry.bytes)) s =
          s.answered s.hub 0x41 tag .busy [])

/-- R113, R117: START_PORT of an OFF port with a role, within the limit on slots and rate, enters SETTLING when no init entry is enabled, and
otherwise hands over an INIT job with the enabled entries and enters INIT, or is refused FULL; STOP_PORT enters OFF at once and detaches
the port's INIT job: a waiting one leaves the queue, whose other jobs keep their order, and an active one takes the ending mark. Each posts PORT_STATE. Model's choice: the byte index of these notices is 0 (assumption log, 52). -/
def Obligations.StartAndStopPort : Prop :=
  ∀ (s : State) (tag : Tag) (i : Nat) (pt : Port), s.hub.Ready → i < 6 → s.hub.port i = some pt →
    (pt.state ≠ .off → exec (.startPort tag [oneByte i]) s = s.answered s.hub 0x42 tag .busy []) ∧
    (pt.state = .off → (pt.role = .unused ∨ 16 < pt.slots * s.hub.clock.rate.multiple) →
      exec (.startPort tag [oneByte i]) s = s.answered s.hub 0x42 tag .conflict []) ∧
    (pt.state = .off → pt.role ≠ .unused → pt.slots * s.hub.clock.rate.multiple ≤ 16 →
      ((∀ e ∈ pt.initList, e.enabled = false) → exec (.startPort tag [oneByte i]) s =
        s.answered ((s.hub.putPort i { pt with state := .settling, remaining := some pt.settle, failure := none }).post
          (.portState i .settling .start none 0)) 0x42 tag .ok [2]) ∧
      ((∃ e ∈ pt.initList, e.enabled = true) →
        (s.hub.bus.room = false → exec (.startPort tag [oneByte i]) s = s.answered s.hub 0x42 tag .full []) ∧
        (s.hub.bus.room = true → ∃ ws : List InitWrite, exec (.startPort tag [oneByte i]) s =
            s.answered (((s.hub.withBus (s.hub.bus.add (.init i ws false))).putPort i { pt with state := .init, failure := none }).post
              (.portState i .init .start none 0)) 0x42 tag .ok [1] ∧
          ws.Pairwise (fun a b => a.index < b.index) ∧
          ∀ w : InitWrite, w ∈ ws ↔ ∃ e, pt.initList[w.index]? = some e ∧ e.enabled = true ∧ w.addr = e.addr ∧ w.reg = e.reg ∧ w.value = e.value))) ∧
    (pt.state = .off → exec (.stopPort tag [oneByte i]) s = s.answered s.hub 0x43 tag .ok []) ∧
    (pt.state ≠ .off → ∃ b : ControlBus, exec (.stopPort tag [oneByte i]) s =
        s.answered (((s.hub.withBus b).putPort i { pt with state := .off, remaining := none }).post (.portState i .off .stopped none 0))
          0x43 tag .ok [] ∧
      b = { s.hub.bus with active := b.active, waiting := b.waiting } ∧
      (∃ stays : Job → Bool, b.waiting = s.hub.bus.waiting.filter stays ∧
        ∀ j, stays j = true ↔ ∀ ws, j.kind ≠ .init i ws false) ∧
      (∀ j ws, s.hub.bus.active = some j → j.kind = .init i ws false → b.active = some { j with kind := .init i ws true, ending := true }) ∧
      ((∀ j ws, s.hub.bus.active = some j → j.kind ≠ .init i ws false) → b.active = s.hub.bus.active))

/-- R115, R118, R119, R109: at the boundary that begins frame p each port takes its state for p: a SETTLING port counts down, and runs once
nothing remains, which posts PORT_STATE with stamp p + 1 (R120). A RUNNING playback port shifts out the settled samples of its slots, and a RUNNING capture port whose clocks ran
yields the samples shifted in; one whose clocks did not run yields free values; a port in any other state carries and yields zeros, and an OFF port has
no wire frame. PORT_SETTLED alone makes the port of a boundary
about to come RUNNING and posts PORT_STATE with stamp p + 1. Model's choices: that row (assumption log, 23), the free values (24), the byte index 0 of its notice (52), and that
the clocks ran, and every slot shifted in, in a frame within which the port was stopped and started, configured anew or not (50). -/
def Obligations.PortsAtABoundary : Prop :=
  ∀ (s : State) (mCycles : Nat) (wire : List (List SlotWord)) (i : Nat) (pt : Port), s.hub.framesRun → i < 6 → s.hub.port i = some pt →
    (pt.state = .settling → pt.remaining = some 0 → exec (.portSettled i) s =
      s.becomes ((s.hub.putPort i { pt with state := .running, remaining := none }).postAt (s.hub.clock.n + 1)
        (.portState i .running .settled none 0))) ∧
    ∃ (h : Hub) (pt' : Port), exec (.frameBoundary mCycles wire) s = s.becomes h ∧ h.port i = some pt' ∧
      pt'.role = pt.role ∧ pt'.slots = pt.slots ∧ pt'.settle = pt.settle ∧ pt'.initList = pt.initList ∧ pt'.failure = pt.failure ∧
      pt'.clocked = decide (pt'.state ≠ .off) ∧ pt'.yieldIdle = decide (pt'.state ≠ .running) ∧
      (pt.state = .settling → pt.remaining = some 0 → pt'.state = .running ∧ pt'.remaining = none ∧ ∃ l : Link, Link.Reports s.hub.link l ∧
        Link.Reports (l.post (s.hub.clock.n + 1) (.portState i .running .settled none 0)) h.link) ∧
      (∀ k, pt.state = .settling → pt.remaining = some (k + 1) → pt'.state = .settling ∧ pt'.remaining = some k) ∧
      (pt.state ≠ .settling → pt'.state = pt.state ∧ pt'.remaining = pt.remaining) ∧
      (pt.role = .playback →
        (pt'.state = .running → pt'.sdOut = (numbers 0 pt.slots).map (fun k => slotOf (h.engine.settledAt ⟨i, k⟩))) ∧
        (pt'.state = .off → pt'.sdOut = []) ∧
        (pt'.state ≠ .running → pt'.state ≠ .off → pt'.sdOut = List.replicate pt.slots 0)) ∧
      (pt.role = .capture →
        (pt'.state = .running → pt.clocked = true →
          pt'.yielded = (numbers 0 pt.slots).map (fun k => ((wire.getD i []).getD k 0).extractLsb' 8 24)) ∧
        (pt'.state = .running → pt.clocked = false → pt'.yielded.length = pt.slots) ∧
        (pt'.state ≠ .running → pt'.yielded = List.replicate pt.slots 0))

/-- R60 to R63, R118: what a PLAYBACK port in RUNNING shifts out for a slot that one stream alone maps: for a RUNNING unmuted stream at or after S,
the written frame's sample, and in a gap 0 (SILENCE, or HOLD past its limit) or the last output value (HOLD within its limit); in ARMED or muted, 0.
R44, R61, R62, R118: for any other slot it shifts out 0: one that no stream claims, and one claimed by a stream that is IDLE or HALTED, or whose E the boundary
is. -/
def Obligations.PlayoutReachesTheWire : Prop :=
  (∀ (s : State) (mCycles : Nat) (wire : List (List SlotWord)) (e : PortSlot) (pt : Port), s.hub.framesRun → s.hub.noCueDue → e.port < 6 →
    s.hub.port e.port = some pt → pt.role = .playback → pt.state = .running → e.slot < pt.slots →
    (∀ j st, s.hub.stream j = some st → st.desc.direction = .play →
      (st.state = .armed ∨ st.state = .running ∧ st.stop ≠ some s.hub.clock.n) → e ∉ st.desc.map) →
    ∃ (h : Hub) (pt' : Port), exec (.frameBoundary mCycles wire) s = s.becomes h ∧ h.port e.port = some pt' ∧
      pt'.sdOut.length = pt.slots ∧ pt'.sdOut[e.slot]? = some 0) ∧
  ∀ (s : State) (mCycles : Nat) (wire : List (List SlotWord)) (i c : Nat) (st : Stream) (e : PortSlot) (pt : Port), s.hub.framesRun →
    s.hub.noCueDue → i < 16 → s.hub.stream i = some st → st.desc.direction = .play → st.desc.map[c]? = some e → st.desc.map.Nodup →
    st.lastOut.length = st.desc.map.length →
    (∀ j st', j ≠ i → s.hub.stream j = some st' → st'.desc.direction = .play → e ∉ st'.desc.map) → e.port < 6 →
    s.hub.port e.port = some pt → pt.role = .playback → pt.state = .running → e.slot < pt.slots →
    (st.state = .armed ∨ st.state = .running ∧ st.stop ≠ some s.hub.clock.n) →
    ∃ (h : Hub) (pt' : Port) (v : Sample), exec (.frameBoundary mCycles wire) s = s.becomes h ∧ h.port e.port = some pt' ∧
      pt'.sdOut[e.slot]? = some (slotOf v) ∧
      (st.state = .armed ∨ st.muted = true → v = 0) ∧
      ∀ a, st.state = .running → st.muted = false → st.start = some a → a ≤ s.hub.clock.n →
        (cellGet st.written (s.hub.clock.n % st.desc.capacity) = some s.hub.clock.n →
          v = poolRead s.hub.engine.pool (st.frameWord s.hub.clock.n + c)) ∧
        (cellGet st.written (s.hub.clock.n % st.desc.capacity) ≠ some s.hub.clock.n →
          (st.desc.fill = some .silence → v = 0) ∧
          ∀ l, st.desc.fill = some (.hold l) → l < 65535 → v = if st.gapRun + 1 ≤ l then st.lastOut.getD c 0 else 0)

/-! ### Chapter 8: the control bus -/

/-- R125, R127: an accepted CONVERTER_XFER holds its reply entry and creates a job, which is active at once on a free bus and waits
otherwise; without room it is refused FULL. The next job that the arbiter chooses is the oldest waiting CUE job, else the oldest (R126).
R126: with the active place empty the arbiter takes the oldest waiting CUE job, and the oldest job of any kind when no CUE job waits; with
the condition STUCK it begins with recovery. -/
def Obligations.JobQueue : Prop :=
  (∀ (s : State) (tag : Tag) (tx : Transaction) (body : List Byte), s.hub.Ready →
     ((∃ a data, tx = .write a data ∧ a ≤ 127 ∧ 1 ≤ data.length ∧ data.length ≤ 16 ∧ body = [0, oneByte a, oneByte data.length, 0] ++ data) ∨
       (∃ a reg n, tx = .read a reg n ∧ a ≤ 127 ∧ 1 ≤ n ∧ n ≤ 16 ∧ body = [1, oneByte a, oneByte n, reg]) ∨
       (∃ a x y, tx = .probe a ∧ a ≤ 127 ∧ body = [2, oneByte a, x, y])) →
     ((s.hub.bus.active ≠ none ∨ s.hub.bus.releasing = true) → 8 ≤ s.hub.bus.waiting.length →
       exec (.converterXfer tag body) s = s.answered s.hub 0x48 tag .full []) ∧
     ((s.hub.bus.active = none ∧ s.hub.bus.releasing = false ∨ s.hub.bus.waiting.length < 8) →
       ∃ b : ControlBus, exec (.converterXfer tag body) s = s.becomes ((s.hub.withBus b).withLink
           { s.hub.link with held := s.hub.link.held ++ [s.hub.link.serial], serial := s.hub.link.serial + 1 }) ∧
         (s.hub.bus.active = none → s.hub.bus.releasing = false → b = { s.hub.bus with
           active := some { kind := .xfer tag s.hub.link.serial tx, ending := false, recovery := s.hub.bus.stuck, done := 0 } }) ∧
         ((s.hub.bus.active ≠ none ∨ s.hub.bus.releasing = true) → b = { s.hub.bus with
           waiting := s.hub.bus.waiting ++ [{ kind := .xfer tag s.hub.link.serial tx, ending := false, recovery := false, done := 0 }] }))) ∧
  (∀ b : ControlBus,
     (b.waiting = [] → b.next = { b with active := none }) ∧
     ∀ before j after, b.waiting = before ++ j :: after →
       (j.kind.isCue = true ∧ (∀ k ∈ before, k.kind.isCue = false) ∨ before = [] ∧ ∀ k ∈ b.waiting, k.kind.isCue = false) →
       b.next = { b with active := some { j with recovery := b.stuck }, waiting := before ++ after })

/-- R129: ABORT_XFER marks the active XFER job with the tag; otherwise it removes the oldest waiting one, whose reply ABORTED comes before its own;
with neither it replies NO_SUCH. -/
def Obligations.AbortTransfers : Prop :=
  ∀ (s : State) (tag t : Tag), s.hub.Ready →
    (∀ j e tx, s.hub.bus.active = some j → j.kind = .xfer t e tx → j.ending = false → exec (.abortXfer tag (bytesOf 2 t.toNat)) s =
      s.answered (s.hub.withBus { s.hub.bus with active := some { j with ending := true } }) 0x49 tag .ok []) ∧
    ((∀ j e tx, s.hub.bus.active = some j → j.kind = .xfer t e tx → j.ending = true) →
      ((∀ j ∈ s.hub.bus.waiting, ∀ e tx, j.kind ≠ .xfer t e tx) →
        exec (.abortXfer tag (bytesOf 2 t.toNat)) s = s.answered s.hub 0x49 tag .noSuch []) ∧
      ∀ before j after e tx, s.hub.bus.waiting = before ++ j :: after → (∀ k ∈ before, ∀ e tx, k.kind ≠ .xfer t e tx) →
        j.kind = .xfer t e tx → e ∈ s.hub.link.held →
        exec (.abortXfer tag (bytesOf 2 t.toNat)) s =
          s.answered ((s.hub.withBus { s.hub.bus with waiting := before ++ after }).withLink
            { s.hub.link with held := s.hub.link.held.erase e, replies := s.hub.link.replies ++ [⟨0x48, t, .aborted, []⟩] }) 0x49 tag .ok [])

/-- R123, R114, R127, R128: when a transaction of the active job ends, its sequence has been on the bus; an INIT job that succeeded goes on to its
next entry; any other job ends. An XFER job's reply joins the queue (ABORTED under the ending mark), a CUE job posts CUE_FIRED when called
for, and an INIT job's port enters SETTLING or FAULT. The outcome of a detached INIT job is handed to no port. The arbiter then chooses the next
job (R126). Model's choice: a marked job whose transaction comes to its end before the mark cuts it ends ABORTED too (R129; assumption log, 42), and
the byte index of a notice is 0 but for NO_ACK_DATA (52).
R123: what a WRITE, a READ and a PROBE put on the bus, with every acknowledgement, and the point at which each failure ends it. -/
def Obligations.TransactionEnds : Prop :=
  (∀ (a : Nat) (reg b : Byte) (n : Nat) (before after bytes : List Byte) (toWrite toRead : Byte), a ≤ 127 → toWrite = oneByte (2 * a) →
     toRead = oneByte (2 * a + 1) →
     (∀ data, (Transaction.write a data).wire (.done []) =
       some ([.start, .sent toWrite true] ++ data.map (fun d => .sent d true) ++ [.stop])) ∧
     (∀ data, (Transaction.write a data).wire (.noAckAddress false) = some [.start, .sent toWrite false, .stop]) ∧
     (Transaction.write a (before ++ b :: after)).wire (.noAckData before.length) =
       some ([.start, .sent toWrite true] ++ before.map (fun d => .sent d true) ++ [.sent b false, .stop]) ∧
     (n = bytes.length + 1 → (Transaction.read a reg n).wire (.done (bytes ++ [b])) =
       some ([.start, .sent toWrite true, .sent reg true, .repeatedStart, .sent toRead true] ++
         bytes.map (fun d => .received d true) ++ [.received b false, .stop])) ∧
     (Transaction.read a reg n).wire (.noAckAddress false) = some [.start, .sent toWrite false, .stop] ∧
     (Transaction.read a reg n).wire (.noAckData 0) = some [.start, .sent toWrite true, .sent reg false, .stop] ∧
     (Transaction.read a reg n).wire (.noAckAddress true) =
       some [.start, .sent toWrite true, .sent reg true, .repeatedStart, .sent toRead false, .stop] ∧
     (Transaction.probe a).wire (.done []) = some [.start, .sent toWrite true, .stop] ∧
     (Transaction.probe a).wire (.noAckAddress false) = some [.start, .sent toWrite false, .stop]) ∧
  ∀ (s : State) (o : TxOutcome) (j : Job) (tx : Transaction) (items : List BusItem), s.hub.resetN = true → s.hub.bus.active = some j →
    j.recovery = false → j.transaction = some tx → tx.wire o = some items →
    ∃ h : Hub, exec (.transactionEnd o) s = s.becomes h ∧ h.bus.lastWire = items ∧ h.bus.stuck = s.hub.bus.stuck ∧
      (∀ p ws d bytes, j.kind = .init p ws d → o = .done bytes → j.ending = false → j.done + 1 < ws.length →
        h = s.hub.withBus { s.hub.bus with lastWire := items, active := some { j with done := j.done + 1 } }) ∧
      (∀ t e tx', j.kind = .xfer t e tx' → e ∈ s.hub.link.held → ∃ r : Reply,
        h.link = { s.hub.link with held := s.hub.link.held.erase e, replies := s.hub.link.replies ++ [r] } ∧ r.code = 0x48 ∧ r.tag = t ∧
        (j.ending = true → r.status = .aborted ∧ r.fields = []) ∧
        (j.ending = false →
          (∀ bytes, o = .done bytes → r.status = .ok ∧ r.fields = match tx with
            | .read _ _ n => oneByte n :: bytes
            | .write _ _ => []
            | .probe _ => []) ∧
          (∀ b, o = .noAckAddress b → r.status = .noAckAddress) ∧ (∀ k, o = .noAckData k → r.status = .noAckData k)) ∧
        s.hub.bus.next.active = h.bus.active ∧ s.hub.bus.next.waiting = h.bus.waiting) ∧
      (∀ t due fire notify late skipped a data, j.kind = .cue t due fire notify late skipped a data → j.ending = false →
        (∀ bytes, o = .done bytes → h.link = if notify then s.hub.link.post s.hub.clock.n (.cueFired t due fire .ok 0 late skipped) else s.hub.link) ∧
        (∀ b, o = .noAckAddress b → h.link = s.hub.link.post s.hub.clock.n (.cueFired t due fire .noAckAddress 0 late skipped)) ∧
        (∀ k, o = .noAckData k → h.link = s.hub.link.post s.hub.clock.n (.cueFired t due fire .noAckData k late skipped)) ∧
        s.hub.bus.next.active = h.bus.active ∧ s.hub.bus.next.waiting = h.bus.waiting) ∧
      (∀ p ws w pt ended, j.kind = .init p ws false → j.ending = false → ws[j.done]? = some w → p < 6 → s.hub.port p = some pt →
        ended = s.hub.withBus ({ s.hub.bus with lastWire := items } : ControlBus).next →
        (∀ bytes, o = .done bytes → ws.length = j.done + 1 →
          h = (ended.putPort p { pt with state := .settling, remaining := some pt.settle }).withLink
            (s.hub.link.post s.hub.clock.n (.portState p .settling .initDone none 0))) ∧
        (∀ b, o = .noAckAddress b →
          h = (ended.putPort p { pt with state := .fault, failure := some ⟨w.index, .noAckAddress, 0⟩ }).withLink
            (s.hub.link.post s.hub.clock.n (.portState p .fault .noAckAddress (some w.index) 0))) ∧
        (∀ k, o = .noAckData k →
          h = (ended.putPort p { pt with state := .fault, failure := some ⟨w.index, .noAckData, k⟩ }).withLink
            (s.hub.link.post s.hub.clock.n (.portState p .fault .noAckData (some w.index) k)))) ∧
      (∀ p ws, j.kind = .init p ws true → j.ending = true →
        h = s.hub.withBus h.bus ∧ s.hub.bus.next.active = h.bus.active ∧ s.hub.bus.next.waiting = h.bus.waiting)

/-- R129 to R131, R133: how jobs end early or on a stuck bus. A marked job ends ABORTED with its byte completed, a byte read not acknowledged,
and a stop; a line held low sets STUCK and ends the active job BUS_STUCK, with both lines released and no stop, after the bits of the byte it broke off, in whose
acknowledge slot the part holds CSDA low for every byte read but the last, and for none under the ending mark (R122, R123); a recovery makes nine pulses and
a stop: one that leaves both lines high sets READY and lets the job go on, and one that does not ends it BUS_STUCK. The end reaches an XFER
job's command, a CUE job's notice and an INIT job's port, and no port when the INIT job is detached. A release shows what a marked job shows, and all of a
recovery in which RESET_PART came; its end lets the arbiter
choose (R126). R122, R133: between jobs both lines are released. Model's choices: the byte index of the notices is 0 (assumption log, 52), and a stop or repeated
start condition, or a recovery pulse, that is broken off shows nothing of itself (59). -/
def Obligations.BusFailures : Prop :=
  (∀ (b : ControlBus) (m : List BusItem), b.lastWire = [] ∨ b.lastWire = m ++ [.stop] ∨ b.lastWire = m ++ [.released] →
     b.rest = ⟨false, false⟩) ∧
  (∀ (b : ControlBus) (m : List BusItem) (acked : Bool), b.lastWire = m ++ [.cutReceived 9 acked] → b.rest = ⟨false, acked⟩) ∧
  ∀ s : State, s.hub.resetN = true →
    (∀ (j : Job) (p : Option BusProgress), s.hub.bus.release = some j →
      (∃ l, exec (.busReleaseEnd p) s = s.becomes (s.hub.withBus ({ s.hub.bus with release := none, lastWire := l } : ControlBus).next) ∧
        (j.recovery = true → l = List.replicate 9 .pulse ++ [.stop]) ∧
        (j.recovery = false → (p = none → l = s.hub.bus.lastWire) ∧ ∀ q, p = some q → ∃ m, l = m ++ [.stop] ∧ ∀ tx front d, j.transaction = some tx →
          ((tx.items q.read).take q.items = front ++ [.sent d true] → m = .start :: front ++ [.sent d q.acked]) ∧
          ∀ x, (tx.items q.read).take q.items = front ++ [.received d x] → m = .start :: front ++ [.received d false])) ∧
      (s.hub.bus.active = none → ∃ m, exec (.busStuck p) s =
        s.becomes (s.hub.withBus ({ s.hub.bus with release := none, lastWire := m ++ [.released] } : ControlBus).next))) ∧
    ∀ j : Job, s.hub.bus.active = some j →
      (∀ k, j.recovery = true → j.ending = false → 9 ≤ k → exec (.busRecoveryEnd true k) s = s.becomes (s.hub.withBus { s.hub.bus with
        stuck := false, active := some { j with recovery := false }, lastWire := List.replicate 9 .pulse ++ [.stop] })) ∧
      ∀ (ends : Instr) (b : ControlBus) (p : Option BusProgress) (high : Bool) (k : Nat),
        (ends = .markedJobEnd p ∧ j.ending = true ∧ j.recovery = false ∧ b = s.hub.bus ∨
          ends = .busStuck p ∧ b = { s.hub.bus with stuck := true } ∨
          ends = .busRecoveryEnd high k ∧ j.recovery = true ∧ (k < 9 ∨ high = false) ∧ b = s.hub.bus ∨
          ends = .busRecoveryEnd true k ∧ j.recovery = true ∧ 9 ≤ k ∧ j.ending = true ∧ b = { s.hub.bus with stuck := false }) →
        ∃ (l : List BusItem) (h : Hub), exec ends s = s.becomes h ∧ h.bus = ({ b with lastWire := l } : ControlBus).next ∧
          (∀ t e tx, j.kind = .xfer t e tx → e ∈ s.hub.link.held → h = (s.hub.withBus h.bus).withLink { s.hub.link with
            held := s.hub.link.held.erase e
            replies := s.hub.link.replies ++ [⟨0x48, t, if j.ending then .aborted else .busStuck, []⟩] }) ∧
          (∀ t due fire notify late skipped a data, j.kind = .cue t due fire notify late skipped a data → j.ending = false →
            h = (s.hub.withBus h.bus).withLink (s.hub.link.post s.hub.clock.n (.cueFired t due fire .busStuck 0 late skipped))) ∧
          (∀ i ws w pt, j.kind = .init i ws false → j.ending = false → ws[j.done]? = some w → i < 6 → s.hub.port i = some pt →
            h = ((s.hub.withBus h.bus).putPort i { pt with state := .fault, failure := some ⟨w.index, .busStuck, 0⟩ }).withLink
              (s.hub.link.post s.hub.clock.n (.portState i .fault .busStuck (some w.index) 0))) ∧
          (∀ i ws, j.kind = .init i ws true → h = s.hub.withBus h.bus) ∧
          (∀ high k, ends = .busRecoveryEnd high k → (k < 9 → l = List.replicate k .pulse ++ [.released]) ∧
            (9 ≤ k → l = List.replicate 9 .pulse ++ [.stop] ++ if high then [] else [.released])) ∧
          (ends = .markedJobEnd none → l = s.hub.bus.lastWire) ∧
          (∀ q, ends = .markedJobEnd (some q) → ∃ m, l = m ++ [.stop] ∧ ∀ tx front d, j.transaction = some tx →
            ((tx.items q.read).take q.items = front ++ [.sent d true] → m = .start :: front ++ [.sent d q.acked]) ∧
            ∀ x, (tx.items q.read).take q.items = front ++ [.received d x] → m = .start :: front ++ [.received d false]) ∧
          (ends = .busStuck none → l = [.released]) ∧
          (∀ q, ends = .busStuck (some q) → ∃ m, l = m ++ [.released] ∧ .stop ∉ m ∧
            (∀ tx d x, j.recovery = false → j.transaction = some tx → 0 < q.bits → (tx.items q.read)[q.items]? = some (.sent d x) →
              m.getLast? = some (.cutSent d q.bits)) ∧
            (∀ a reg n x, j.recovery = false → j.transaction = some (.read a reg n) → 0 < q.bits → q.items = 4 + x → x < n →
              m.getLast? = some (.cutReceived q.bits (!j.ending && decide (x + 1 ≠ n)))) ∧
            ∀ tx front d, j.recovery = false → j.transaction = some tx → q.bits = 0 →
              (tx.items q.read).take q.items = front ++ [.sent d true] → m = .start :: front ++ [.sent d q.acked])

/-! ### Chapter 9: the surface bus -/

/-- R149: SET_NODE sets reload and forward flag, and enables or disables the node by its state; a node that is disabled leaves ONLINE with the
effects of R138, a reset command held is answered NO_RESPONSE, an exchange in progress with it is discarded, and the last posted value of
every display on it is absent (R169). Model's choices: the NO_RESPONSE comes before the reply to SET_NODE (assumption log, 60), and the value is absent from the
moment the node leaves its state, where R169 has it absent once an update meets the node not ONLINE (29). -/
def Obligations.SetNode : Prop :=
  ∀ (s : State) (tag : Tag) (a reload : Nat) (fwd : Bool) (n : Node), s.hub.Ready → 1 ≤ a → a ≤ 16 → s.hub.node a = some n →
    1 ≤ reload → reload ≤ 7 →
    (∃ n', exec (.setNode tag [oneByte a, 1, oneByte reload, flagByte fwd]) s = s.answered (s.hub.putNode a n') 0x50 tag .ok [] ∧
      (n.state = .disabled → n' = { n with
        reload := reload, forward := fwd, state := .online, allowance := reload, toggle := false, resetPending := true }) ∧
      (n.state = .online → n' = { n with reload := reload, forward := fwd, allowance := reload }) ∧
      (n.state = .offline ∨ n.state = .halted → n' = { n with reload := reload, forward := fwd })) ∧
    (n.state = .disabled → exec (.setNode tag [oneByte a, 0, oneByte reload, flagByte fwd]) s =
      s.answered (s.hub.putNode a { n with reload := reload, forward := fwd }) 0x50 tag .ok []) ∧
    (n.state ≠ .disabled → ∃ h : Hub, exec (.setNode tag [oneByte a, 0, oneByte reload, flagByte fwd]) s = s.answered h 0x50 tag .ok [] ∧
      Hub.Within [.surface, .meters, .link, .linkState] s.hub h ∧ (∀ b, b ≠ a → h.node b = s.hub.node b) ∧
      h.meters = displaysForget a s.hub.meters ∧ h.node a = some { n with
        reload := reload, forward := fwd, state := .disabled, resetPending := false, resetCommand := none, toggle := false, queue := []
        touched := [], pressed := [] } ∧
      h.surface.exchange = s.hub.surface.exchange.map (fun x => if x.node = a then { x with discarded := true } else x) ∧
      (n.resetCommand = none → h.link = s.hub.link) ∧
      ∀ c, n.resetCommand = some c → c.entry ∈ s.hub.link.held → h.link = { s.hub.link with
        held := s.hub.link.held.erase c.entry, replies := s.hub.link.replies ++ [⟨0x51, c.tag, .noResponse, []⟩] })

/-- R150, R151: RESET_NODE of an ONLINE or HALTED node that holds no reset command keeps the command and its entry until a RESET is answered, and is
refused BUSY otherwise. SURFACE_WRITE to an ONLINE node replaces the value of the setting with its key, which is marked replaced when in
flight, or joins the end of the queue, or is refused FULL; a node that is not ONLINE refuses it BUSY. -/
def Obligations.ResetNodeAndSurfaceWrite : Prop :=
  ∀ (s : State) (tag : Tag) (a : Nat) (n : Node), s.hub.Ready → 1 ≤ a → a ≤ 16 → s.hub.node a = some n →
    ((n.state = .online ∨ n.state = .halted) → n.resetCommand = none → exec (.resetNode tag [oneByte a]) s =
      s.becomes ((s.hub.putNode a { n with resetCommand := some ⟨tag, s.hub.link.serial⟩, resetPending := true }).withLink
        { s.hub.link with held := s.hub.link.held ++ [s.hub.link.serial], serial := s.hub.link.serial + 1 })) ∧
    ((n.state = .disabled ∨ n.state = .offline ∨ n.resetCommand ≠ none) →
      exec (.resetNode tag [oneByte a]) s = s.answered s.hub 0x51 tag .busy []) ∧
    ∀ (c v : Nat) (k : SettingKind) (body : List Byte), c ≤ 63 → v ≤ k.limit →
      body = [oneByte a, oneByte c, oneByte k.code] ++ bytesOf 2 v →
      (n.state ≠ .online → exec (.surfaceWrite tag body) s = s.answered s.hub 0x52 tag .busy []) ∧
      (n.state = .online → (∃ w ∈ n.queue, w.control = c ∧ w.kind = k) →
        ∃ q : List Setting, exec (.surfaceWrite tag body) s = s.answered (s.hub.putNode a { n with queue := q }) 0x52 tag .ok [] ∧
          q.length = n.queue.length ∧ ∀ (m : Nat) (w : Setting), n.queue[m]? = some w →
            (w.control = c ∧ w.kind = k → q[m]? = some { w with value := v, replaced := w.replaced || w.inFlight }) ∧
            (¬ (w.control = c ∧ w.kind = k) → q[m]? = some w)) ∧
      (n.state = .online → (∀ w ∈ n.queue, ¬ (w.control = c ∧ w.kind = k)) →
        (n.queue.length < 32 → exec (.surfaceWrite tag body) s =
          s.answered (s.hub.putNode a { n with queue := n.queue ++ [⟨c, k, v, false, false⟩] }) 0x52 tag .ok []) ∧
        (32 ≤ n.queue.length → exec (.surfaceWrite tag body) s = s.answered s.hub 0x52 tag .full []))

/-- R139, R140, R142, R147, R150, R152, R155: a round begins when none is in progress and counts for every OFFLINE node; the next visit is of the lowest
address left that is to be visited, and sends RESET, a WRITE of the first 16 sendable settings (each marked in flight), POLL, a probe, or the
RESET of a reset visit; the receipt of a report's last character stamps it. A MOTOR setting held because its control is touched keeps its place,
its value and its marks while the WRITE passes over it (R152). Model's choices: when a round is due and which addresses it has
passed (assumption log, 35), and that a RESET is sent for the command held as its visit begins (33). -/
def Obligations.RoundsAndVisits : Prop :=
  ∀ s : State, s.hub.resetN = true →
    (s.hub.surface.exchange = none → (∀ a n, s.hub.surface.cursor ≤ a → a ≤ 16 → s.hub.node a = some n → n.visited = false) →
      exec .roundStart s = s.becomes (s.hub.withSurface { s.hub.surface with
        cursor := 1
        nodes := s.hub.surface.nodes.map (fun n => if n.state = .offline then { n with rounds := min 16 (n.rounds + 1) } else n) })) ∧
    (∀ x, s.hub.surface.exchange = some x → x.kind = .poll →
      exec .reportReceived s = s.becomes (s.hub.withSurface { s.hub.surface with exchange := some { x with stamp := some s.hub.clock.n } })) ∧
    ∀ (a : Nat) (n : Node), s.hub.surface.exchange = none → s.hub.surface.cursor ≤ a → 1 ≤ s.hub.surface.cursor → a ≤ 16 →
      s.hub.node a = some n →
      (n.state = .online ∨ n.state = .offline ∧ n.rounds = 16 ∨ n.state = .halted ∧ n.resetCommand ≠ none) →
      (∀ b m, s.hub.surface.cursor ≤ b → b < a → s.hub.node b = some m → m.visited = false) →
      ∃ (h : Hub) (kind : ExchangeKind) (fc : Bool), exec .visitStart s = s.becomes h ∧ Hub.Within [.surface] s.hub h ∧
        h.surface.cursor = a + 1 ∧
        h.surface.exchange = some { node := a, kind := kind, discarded := false, forCommand := fc, stamp := none } ∧
        (∀ b, b ≠ a → h.node b = s.hub.node b) ∧
        (n.state = .online → n.resetPending = true → kind = .reset ∧ fc = n.resetCommand.isSome ∧
          h.surface.lastSent = packetOf packetReset a [] ∧ h.node a = some n) ∧
        (n.state = .online → n.resetPending = false →
          ∀ sendable, sendable = n.queue.filter (fun w => !(decide (w.kind = .motor) && decide (w.control ∈ n.touched))) →
          (sendable = [] → kind = .poll ∧ h.surface.lastSent = packetOf packetPoll a [] ∧ h.node a = some n) ∧
          (sendable ≠ [] → kind = .write ∧
            h.surface.lastSent = packetOf packetWrite a ((sendable.take 16).flatMap Setting.bytes) ∧
            ∃ q, h.node a = some { n with queue := q } ∧
              q.filter (fun w => !(decide (w.kind = .motor) && decide (w.control ∈ n.touched))) =
                (sendable.take 16).map (fun w => { w with inFlight := true, replaced := false }) ++ sendable.drop 16 ∧
              q.length = n.queue.length ∧
              ∀ (k : Nat) (w : Setting), n.queue[k]? = some w → w.kind = .motor → w.control ∈ n.touched → q[k]? = some w)) ∧
        (n.state = .offline → kind = .probe ∧ h.surface.lastSent = packetOf packetPoll a [] ∧ h.node a = some n) ∧
        (n.state = .halted → kind = .resetVisit ∧ fc = true ∧ h.surface.lastSent = packetOf packetReset a [] ∧ h.node a = some n)

/-- R136, R140: an answer without a character is a timeout. A packet whose characters arrive whole, back to back and alone is a valid answer when
its address is the node's, its type may answer and its form is R135's, and a protocol error when not; with its CRC changed it is a CRC
error, with its check nibble changed a check-nibble error, and with a start bit after it babble.
R140, R147: the types that may answer each packet; R135: the form of each type. Model's choices: a type that R135 does not define has any form,
which only a probe meets (assumption log, 31), and of a WRITE only the length counts (51); which of two faults of one answer
decides (30).
R136: within a packet a stop bit sampled low, a gap, and an end before the declared length are framing errors; a length byte above 64, and a line that is not
idle within 1 ms, are babble.
R135: a packet is its type byte, address, payload length, payload and the CRC of all but the type byte, least significant byte first. The CRC is that of
the polynomial x^16 + x^12 + x^5 + 1, preset to all ones, each byte taken most significant bit first, not inverted; over 0x31 to 0x39 it is 0x29B1. -/
def Obligations.AnswersAreJudged : Prop :=
  (∀ shift : BitVec 16 → BitVec 16, (∀ r, shift r = if r.msb then (r <<< 1) ^^^ 0x1021 else r <<< 1) →
     crcOf [] = 0xFFFF ∧ ∀ (bytes : List Byte) (b : Byte), crcOf (bytes ++ [b]) =
       shift (shift (shift (shift (shift (shift (shift (shift (crcOf bytes ^^^ (b ++ (0 : BitVec 8))))))))))) ∧
  crcOf [0x31, 0x32, 0x33, 0x34, 0x35, 0x36, 0x37, 0x38, 0x39] = 0x29B1 ∧
  (∀ (type addr : Nat) (payload covered : List Byte), covered = [oneByte addr, oneByte payload.length] ++ payload →
     packetOf type addr payload = [oneByte (type + 16 * (15 - type))] ++ covered ++ bytesOf 2 (crcOf covered).toNat) ∧
  (∀ (k : ExchangeKind) (type : Nat), k.answers type = true ↔ match k with
     | .reset => type ∈ [4, 5, 6]
     | .resetVisit => type ∈ [4, 5, 6]
     | .write => type ∈ [4, 5, 6]
     | .poll => type ∈ [8, 5, 6]
     | .probe => True) ∧
  (∀ (type : Nat) (payload : List Byte), type < 16 → payload.length ≤ 64 →
     (type ∈ [1, 3, 4, 5, 6] → (formFits type payload = true ↔ payload = [])) ∧
     (type = 2 → (formFits type payload = true ↔ 4 ≤ payload.length ∧ payload.length % 4 = 0)) ∧
     (type = 8 → (formFits type payload = true ↔
       ∃ (toggle : Byte) (events : List Byte), payload = toggle :: events ∧ toggle.toNat ≤ 1 ∧ events.length ≤ 60 ∧ events.length % 4 = 0)) ∧
     (type ∉ [1, 2, 3, 4, 5, 6, 8] → formFits type payload = true)) ∧
  (∀ (k : ExchangeKind) (a b type : Nat) (payload front rear : List Byte) (c : LineChar) (after : List LineChar) (again : Bool),
     b < 256 → type < 16 → payload.length ≤ 64 → packetOf type b payload = front ++ rear → rear ≠ [] →
     ((c.stopHigh = false ∨ c.gapBefore = true ∧ front ≠ []) → judge a k.answers
       { chars := (cleanAnswer front).chars ++ c :: after, startAfter := again, neverIdle := false } = .framingError) ∧
     (front ≠ [] → judge a k.answers { cleanAnswer front with startAfter := again } = .framingError) ∧
     (∀ (x y : Byte), 64 < y.toNat → judge a k.answers
       { chars := (cleanAnswer [typeByte type, x, y]).chars ++ after, startAfter := again, neverIdle := false } = .babble) ∧
     judge a k.answers { chars := c :: after, startAfter := again, neverIdle := true } = .babble) ∧
  ∀ (k : ExchangeKind) (a b type : Nat) (payload : List Byte), a < 256 → b < 256 → type < 16 → payload.length ≤ 64 →
    judge a k.answers { chars := [], startAfter := false, neverIdle := false } = .timeout ∧
    (b = a → k.answers type = true → formFits type payload = true →
      judge a k.answers (cleanAnswer (packetOf type b payload)) = .valid type payload) ∧
    (¬ (b = a ∧ k.answers type = true ∧ formFits type payload = true) →
      judge a k.answers (cleanAnswer (packetOf type b payload)) = .protocolError) ∧
    judge a k.answers { cleanAnswer (packetOf type b payload) with startAfter := true } = .babble ∧
    (∀ x y : Byte, [x, y] ≠ bytesOf 2 (crcOf ([oneByte b, oneByte payload.length] ++ payload)).toNat →
      judge a k.answers (cleanAnswer ([typeByte type, oneByte b, oneByte payload.length] ++ payload ++ [x, y])) = .crcError) ∧
    ∀ (x : Byte) (rest : List Byte), x ≠ typeByte (x.toNat % 16) → judge a k.answers (cleanAnswer (x :: rest)) = .nibbleError

/-- R141 to R143, R144: what the packet that is an exchange's own answer does to the record of an ONLINE node. A RESET acknowledged clears RESET
pending, toggle and tables; a WRITE acknowledged removes the settings in flight that were not replaced; POLL follows either. A report
is acknowledged; one with the expected toggle inverts it, and of a duplicate the events are discarded: it changes only the allowance. Each reloads the
allowance.
R141, R150: a RESET answered NAK leaves RESET pending set, and answers NO_RESPONSE to the command it was sent for; a command taken after it was sent
waits for the next RESET. Model's choices: the replaced marks are cleared with the in-flight marks when the WRITE ends (assumption log, 32), and which
RESET answers a command (33). -/
def Obligations.ExchangeAnswered : Prop :=
  ∀ (s : State) (x : Exchange) (n : Node) (ans : LineAnswer) (type : Nat) (payload : List Byte), s.hub.resetN = true →
    s.hub.surface.exchange = some x → x.discarded = false → s.hub.node x.node = some n → n.state = .online →
    judge x.node x.kind.answers ans = .valid type payload →
    (x.kind = .reset → type = packetAck → n.resetCommand = none → x.forCommand = false →
      ∃ h : Hub, exec (.resetExchangeEnd ans) s = s.becomes h ∧ h.polls x.node ∧ h.link = s.hub.link ∧ h.node x.node = some { n with
        resetPending := false, toggle := false, touched := [], pressed := [], allowance := n.reload }) ∧
    (x.kind = .reset → type = packetAck → ∀ c, n.resetCommand = some c → x.forCommand = true → c.entry ∈ s.hub.link.held →
      ∃ h : Hub, exec (.resetExchangeEnd ans) s = s.becomes h ∧ h.polls x.node ∧
        h.link = { s.hub.link with
          held := s.hub.link.held.erase c.entry, replies := s.hub.link.replies ++ [⟨0x51, c.tag, .ok, []⟩] } ∧
        h.node x.node = some { n with
          resetPending := false, toggle := false, touched := [], pressed := [], allowance := n.reload, resetCommand := none }) ∧
    (x.kind = .reset → type = packetAck → n.resetCommand ≠ none → x.forCommand = false →
      ∃ h : Hub, exec (.resetExchangeEnd ans) s = s.becomes h ∧ h.polls x.node ∧ h.link = s.hub.link ∧ h.node x.node = some { n with
        resetPending := true, toggle := false, touched := [], pressed := [], allowance := n.reload }) ∧
    (x.kind = .reset → type = packetNak → x.forCommand = false →
      ∃ h : Hub, exec (.resetExchangeEnd ans) s = s.becomes h ∧ h.polls x.node ∧ h.link = s.hub.link ∧
        h.node x.node = some { n with allowance := n.reload }) ∧
    (x.kind = .reset → type = packetNak → ∀ c, n.resetCommand = some c → x.forCommand = true → c.entry ∈ s.hub.link.held →
      ∃ h : Hub, exec (.resetExchangeEnd ans) s = s.becomes h ∧ h.polls x.node ∧
        h.link = { s.hub.link with
          held := s.hub.link.held.erase c.entry, replies := s.hub.link.replies ++ [⟨0x51, c.tag, .noResponse, []⟩] } ∧
        h.node x.node = some { n with allowance := n.reload, resetCommand := none }) ∧
    (x.kind = .write → (type = packetAck ∨ type = packetNak) → ∃ (h : Hub) (q : List Setting),
      exec (.writeExchangeEnd ans) s = s.becomes h ∧ h.polls x.node ∧ h.link = s.hub.link ∧
      h.node x.node = some { n with queue := q, allowance := n.reload } ∧
      (type = packetAck → q = (n.queue.filter (fun w => !w.inFlight || w.replaced)).map
        (fun w => { w with inFlight := false, replaced := false })) ∧
      (type = packetNak → q = n.queue.map (fun w => { w with inFlight := false, replaced := false }))) ∧
    (x.kind = .poll → type = packetNak → ∃ h : Hub, exec (.pollExchangeEnd ans) s = s.becomes h ∧ h.surface.exchange = none ∧
      h.link = s.hub.link ∧ h.node x.node = some { n with allowance := n.reload }) ∧
    (x.kind = .poll → type = packetReport → (payload = [0] ∨ payload = [1]) → ∃ h : Hub,
      exec (.pollExchangeEnd ans) s = s.becomes h ∧ h.surface.exchange = none ∧ h.surface.lastSent = packetOf packetAck x.node [] ∧
      h.link = s.hub.link ∧
      h.node x.node = some { n with toggle := if payload = [flagByte n.toggle] then !n.toggle else n.toggle, allowance := n.reload }) ∧
    ∀ events : List Byte, x.kind = .poll → type = packetReport → payload = flagByte (!n.toggle) :: events → ∃ h : Hub,
      exec (.pollExchangeEnd ans) s = s.becomes h ∧ Hub.Within [.surface] s.hub h ∧
      h.surface = { s.hub.surface with exchange := none, lastSent := packetOf packetAck x.node [], nodes := h.surface.nodes } ∧
      (∀ b, b ≠ x.node → h.node b = s.hub.node b) ∧ h.node x.node = some { n with allowance := n.reload }

/-- R144 to R146, R138, R149: an error of an exchange with an ONLINE node costs one of its allowance, and POLL still follows a first exchange; the
last one makes the node OFFLINE, as babble does at once, and HALTED makes it HALTED: its queue and tables are cleared, NODE_STATE is
posted and the displays on it have no last posted value (R169). A timeout by ANSWER_TIMEOUT is such an error. The outcome of a discarded exchange
changes nothing. R142: a WRITE that ends in an error leaves every setting in the queue, with its marks cleared. R141, R150: a reset command that the node holds is answered NO_RESPONSE when its RESET fails and when the node leaves ONLINE;
after an error RESET pending stays as it was. Model's choices: both marks are cleared (assumption log, 32), which RESET answers a command (33), and a report
that ends a discarded exchange is not acknowledged (61); and the last posted value of a display is absent from the moment its node leaves ONLINE, where R169
has it absent once an update meets the node not ONLINE (29). -/
def Obligations.ExchangeFaults : Prop :=
  ∀ (s : State) (x : Exchange) (ans : LineAnswer) (c : Instr) (o : LineOutcome), s.hub.resetN = true → s.hub.surface.exchange = some x →
    (c = x.kind.ends ans ∧ o = judge x.node x.kind.answers ans ∨ c = .answerTimeout ∧ o = .timeout) →
    (x.discarded = true → exec c s = s.becomes (s.hub.withSurface { s.hub.surface with exchange := none })) ∧
    (∀ n, x.discarded = false → s.hub.node x.node = some n → n.state = .online →
      (x.kind = .reset ∨ x.kind = .write ∨ x.kind = .poll) → n.resetCommand = none → x.forCommand = false →
      (o.isError → 2 ≤ n.allowance → ∃ (h : Hub) (q : List Setting), exec c s = s.becomes h ∧ h.link = s.hub.link ∧
        h.node x.node = some { n with allowance := n.allowance - 1, queue := q } ∧
        (x.kind = .write → q = n.queue.map (fun w => { w with inFlight := false, replaced := false })) ∧ (x.kind ≠ .write → q = n.queue) ∧
        (x.kind ≠ .poll → h.polls x.node) ∧ (x.kind = .poll → h.surface.exchange = none)) ∧
      ∀ (st : NodeState) (r : NodeReason) (left : Nat),
        (o.isError ∧ n.allowance = 1 ∧ st = .offline ∧ r = .allowance ∧ left = 0 ∨
          o = .babble ∧ st = .offline ∧ r = .babble ∧ left = n.allowance ∨
          o = .valid packetHalted [] ∧ st = .halted ∧ r = .halted ∧ left = n.allowance) →
        (∃ h : Hub, exec c s = s.becomes h ∧ h.surface.exchange = none ∧ h.meters = displaysForget x.node s.hub.meters ∧
          h.link = s.hub.link.post s.hub.clock.n (.nodeState x.node st r) ∧
          h.node x.node = some { n with
            state := st, allowance := left, resetPending := false, toggle := false, queue := [], touched := [], pressed := []
            rounds := if st = .offline then 0 else n.rounds })) ∧
    ∀ n cmd, x.discarded = false → s.hub.node x.node = some n → n.state = .online →
      (x.kind = .reset ∨ x.kind = .write ∨ x.kind = .poll) → n.resetCommand = some cmd → cmd.entry ∈ s.hub.link.held →
      (o.isError → 2 ≤ n.allowance → ∃ (h : Hub) (q : List Setting), exec c s = s.becomes h ∧
        (x.forCommand = false → h.link = s.hub.link ∧ h.node x.node = some { n with allowance := n.allowance - 1, queue := q } ∧
          (x.kind = .write → q = n.queue.map (fun w => { w with inFlight := false, replaced := false })) ∧ (x.kind ≠ .write → q = n.queue)) ∧
        (x.kind = .reset → x.forCommand = true → q = n.queue ∧ h.polls x.node ∧
          h.link = { s.hub.link with
            held := s.hub.link.held.erase cmd.entry, replies := s.hub.link.replies ++ [⟨0x51, cmd.tag, .noResponse, []⟩] } ∧
          h.node x.node = some { n with allowance := n.allowance - 1, queue := q, resetCommand := none })) ∧
      ∀ (st : NodeState) (r : NodeReason) (left : Nat),
        (o.isError ∧ n.allowance = 1 ∧ st = .offline ∧ r = .allowance ∧ left = 0 ∨
          o = .babble ∧ st = .offline ∧ r = .babble ∧ left = n.allowance ∨
          o = .valid packetHalted [] ∧ st = .halted ∧ r = .halted ∧ left = n.allowance) →
        ∃ h : Hub, exec c s = s.becomes h ∧ h.surface.exchange = none ∧ h.meters = displaysForget x.node s.hub.meters ∧
          h.link = { s.hub.link.post s.hub.clock.n (.nodeState x.node st r) with
            held := s.hub.link.held.erase cmd.entry, replies := s.hub.link.replies ++ [⟨0x51, cmd.tag, .noResponse, []⟩] } ∧
          h.node x.node = some { n with
            state := st, allowance := left, resetPending := false, resetCommand := none, toggle := false, queue := [], touched := []
            pressed := [], rounds := if st = .offline then 0 else n.rounds }

/-- R147, R150: any valid answer to a probe but HALTED brings the node back ONLINE with RESET pending, HALTED makes it HALTED, and anything else leaves
it OFFLINE; each sets the round counter to 0, and none is acknowledged, a report neither, whose events are discarded. In the reset visit of a HALTED node ACK makes it ONLINE and answers the command OK; any
other outcome leaves it HALTED and answers NO_RESPONSE. A timeout, by ANSWER_TIMEOUT (R136), is such an outcome of both. Model's choice: the
displays on a node that a probe finds HALTED have no last posted value from that moment, where R169 has it absent once an update meets the node
not ONLINE (assumption log, 29). -/
def Obligations.ProbesAndResetVisits : Prop :=
  ∀ (s : State) (x : Exchange) (n : Node) (ans : LineAnswer) (i : Instr) (o : LineOutcome), s.hub.resetN = true →
    s.hub.surface.exchange = some x → x.discarded = false → s.hub.node x.node = some n →
    (i = x.kind.ends ans ∧ o = judge x.node x.kind.answers ans ∨ i = .answerTimeout ∧ o = .timeout) →
    (x.kind = .probe → n.resetCommand = none → ∃ h : Hub, exec i s = s.becomes h ∧
      h.surface = { s.hub.surface with exchange := none, nodes := h.surface.nodes } ∧ Hub.Within [.surface, .meters, .link] s.hub h ∧
      (∀ b, b ≠ x.node → h.node b = s.hub.node b) ∧
      (∀ type payload, o = .valid type payload → type ≠ packetHalted →
        h.link = s.hub.link.post s.hub.clock.n (.nodeState x.node .online .recovered) ∧
        h.node x.node = some { n with state := .online, rounds := 0, allowance := n.reload, toggle := false, resetPending := true }) ∧
      (∀ payload, o = .valid packetHalted payload →
        h.link = s.hub.link.post s.hub.clock.n (.nodeState x.node .halted .halted) ∧
        h.meters = displaysForget x.node s.hub.meters ∧ h.node x.node = some { n with
          state := .halted, rounds := 0, resetPending := false, toggle := false, queue := [], touched := [], pressed := [] }) ∧
      ((∀ type payload, o ≠ .valid type payload) → h.link = s.hub.link ∧ h.node x.node = some { n with rounds := 0 })) ∧
    (x.kind = .resetVisit → ∀ c, n.resetCommand = some c → c.entry ∈ s.hub.link.held → ∃ h : Hub,
      exec i s = s.becomes h ∧ h.surface.exchange = none ∧ h.link.held = s.hub.link.held.erase c.entry ∧
      (∀ payload, o = .valid packetAck payload → h.link.replies = s.hub.link.replies ++ [⟨0x51, c.tag, .ok, []⟩] ∧
        h.link.notices = (s.hub.link.post s.hub.clock.n (.nodeState x.node .online .resetOk)).notices ∧
        h.node x.node = some { n with
          state := .online, allowance := n.reload, toggle := false, resetPending := false, resetCommand := none }) ∧
      ((∀ payload, o ≠ .valid packetAck payload) → h.link.replies = s.hub.link.replies ++ [⟨0x51, c.tag, .noResponse, []⟩] ∧
        h.link.notices = s.hub.link.notices ∧ h.node x.node = some { n with resetPending := false, resetCommand := none }))

/-! ### Chapter 10: surface events and bindings -/

/-- R163: SET_BINDING replaces the entry of its index whole, and CLEAR_BINDING makes it empty; an index above 31 is refused BAD_VALUE. -/
def Obligations.SetAndClearBinding : Prop :=
  ∀ (s : State) (tag : Tag) (i : Nat) (b : Binding), s.hub.Ready → i < 256 → b.fits →
    (i < 32 → exec (.setBinding tag (b.bytes i)) s =
      s.answered (s.hub.withSurface { s.hub.surface with bindings := s.hub.surface.bindings.set i (some b) }) 0x58 tag .ok []) ∧
    (i < 32 → exec (.clearBinding tag [oneByte i]) s =
      s.answered (s.hub.withSurface { s.hub.surface with bindings := s.hub.surface.bindings.set i none }) 0x59 tag .ok []) ∧
    (32 ≤ i → exec (.setBinding tag (b.bytes i)) s = s.answered s.hub 0x58 tag .badValue [] ∧
      exec (.clearBinding tag [oneByte i]) s = s.answered s.hub 0x59 tag .badValue [])

/-- R155 to R162: an accepted report with one event. A control above 63 or an undefined kind is dropped. A FADER value is limited to 1,023 and an
ENCODER count to −127; a TOUCH or BUTTON event is recorded in its table. With the forward flag on, SURFACE_EVENT is posted with the report's
stamp. A BUTTON event that meets no binding leaves the blocks alone; one that meets a single unqualified STREAM_TRIGGER binding hands
that stream a trigger whose T is the stamp, and its notice carries BOUND.
R157 to R162, for any number of events: each is handled whole before the next: its table update, then the bindings in index order, each that meets the
event and whose qualifier is pressed handing its action over before the next is examined, then the forwarding. The actions of R162: a trigger at the
stamp, a stop at now, the mute inverted for a PLAY stream in ARMED or RUNNING, every clip latch cleared, and the held cue with the tag fired at now (what a firing does
is in PostCue and LateCueActions). -/
def Obligations.SurfaceEvents : Prop :=
  (∀ (g : Hub) (stamp i : Nat),
     g.actBinding (.streamTrigger i) stamp = g.trigger i stamp g.clock.n .triggerBinding ∧
     g.actBinding (.streamStop i) stamp = (g.stopStream i g.clock.n g.clock.n false).1 ∧
     (∀ st, g.stream i = some st → st.desc.direction = .play → (st.state = .armed ∨ st.state = .running) →
       g.actBinding (.streamMuteToggle i) stamp = g.putStream i { st with muted := !st.muted }) ∧
     ((∀ st, g.stream i = some st → st.desc.direction = .capture ∨ st.state ≠ .armed ∧ st.state ≠ .running) →
       g.actBinding (.streamMuteToggle i) stamp = g) ∧
     g.actBinding .clearClips stamp = g.withMeters (g.meters.map (fun m => { m with clipped := false })) ∧
     ((∀ e ∈ g.cues, e.tag ≠ i) → g.actBinding (.cueFire i) stamp = g) ∧
     ∀ front e rear, g.cues = front ++ e :: rear → e.tag = i → (∀ d ∈ front ++ rear, d.tag ≠ i) →
       g.actBinding (.cueFire i) stamp = (g.withCues (front ++ rear)).fireCue e g.clock.n g.clock.n false) ∧
  (∀ (s : State) (x : Exchange) (n : Node) (ans : LineAnswer) (events : List (Byte × Byte × Byte × Byte)) (stamp : Nat),
     s.hub.resetN = true → s.hub.surface.exchange = some x → x.kind = .poll → x.discarded = false → s.hub.node x.node = some n →
     n.state = .online → x.stamp = some stamp → judge x.node x.kind.answers ans =
       .valid packetReport (flagByte n.toggle :: events.flatMap (fun e => [e.1, e.2.1, e.2.2.1, e.2.2.2])) →
     ∃ (h first : Hub) (hubs : List Hub), exec (.pollExchangeEnd ans) s = s.becomes h ∧
       first = (s.hub.withSurface { s.hub.surface with exchange := none, lastSent := packetOf packetAck x.node [] }).putNode x.node
         { n with toggle := !n.toggle, allowance := n.reload } ∧
       hubs.length = events.length + 1 ∧ hubs[0]? = some first ∧ hubs[events.length]? = some h ∧
       ∀ (j : Nat) (c k lo hi : Byte) (g g' : Hub), events[j]? = some (c, k, lo, hi) → hubs[j]? = some g → hubs[j + 1]? = some g' →
         ((63 < c.toNat ∨ k = 0 ∨ 4 < k.toNat) → g' = g) ∧
         ∀ (kind : EventKind) (v : Int) (n₀ : Node), c.toNat ≤ 63 →
           (k = 1 ∧ kind = .fader ∧ v = (min (lo.toNat + 256 * hi.toNat) 1023 : Nat) ∨
             k = 2 ∧ kind = .touch ∧ v = (if lo = 0 ∧ hi = 0 then 0 else 1) ∨
             k = 3 ∧ kind = .button ∧ v = (if lo = 0 ∧ hi = 0 then 0 else 1) ∨
             k = 4 ∧ kind = .encoder ∧ v = max (-127) lo.toInt) →
           g.node x.node = some n₀ →
           ∃ (n₁ : Node) (steps : List Hub) (last : Hub) (bound : Bool),
             n₁ = { n₀ with touched := n₁.touched, pressed := n₁.pressed } ∧
             (∀ d, d ∈ n₁.touched ↔ if kind = .touch ∧ d = c.toNat then v = 1 else d ∈ n₀.touched) ∧
             (∀ d, d ∈ n₁.pressed ↔ if kind = .button ∧ d = c.toNat then v = 1 else d ∈ n₀.pressed) ∧
             steps.length = g.surface.bindings.length + 1 ∧ steps[0]? = some (g.putNode x.node n₁) ∧
             steps[g.surface.bindings.length]? = some last ∧
             (∀ (m : Nat) (b : Option Binding) (a a' : Hub), g.surface.bindings[m]? = some b → steps[m]? = some a → steps[m + 1]? = some a' →
               ((∃ d, b = some d ∧ kind = .button ∧ d.fires a x.node c.toNat v) → ∀ d, b = some d → a' = a.actBinding d.action stamp) ∧
               (¬ (∃ d, b = some d ∧ kind = .button ∧ d.fires a x.node c.toNat v) → a' = a)) ∧
             (bound = true ↔ ∃ (m : Nat) (d : Binding) (a : Hub), g.surface.bindings[m]? = some (some d) ∧ steps[m]? = some a ∧
               kind = .button ∧ d.fires a x.node c.toNat v) ∧
             ∀ n₂, last.node x.node = some n₂ →
               g' = if n₂.forward then last.post (.surfaceEvent x.node c.toNat kind v stamp bound) else last) ∧
  ∀ (s : State) (x : Exchange) (n : Node) (ans : LineAnswer) (c k lo hi : Byte) (v stamp : Nat), s.hub.resetN = true →
    s.hub.surface.exchange = some x → x.kind = .poll → x.discarded = false → s.hub.node x.node = some n → n.state = .online →
    judge x.node x.kind.answers ans = .valid packetReport [flagByte n.toggle, c, k, lo, hi] → x.stamp = some stamp →
    v = lo.toNat + 256 * hi.toNat →
    ∃ (h : Hub) (n' : Node), exec (.pollExchangeEnd ans) s = s.becomes h ∧ h.node x.node = some n' ∧
      n' = { n with toggle := !n.toggle, allowance := n.reload, queue := n'.queue, touched := n'.touched, pressed := n'.pressed } ∧
      (k ≠ 3 → n'.queue = n.queue) ∧
      h.surface.exchange = none ∧ h.surface.lastSent = packetOf packetAck x.node [] ∧
      ((63 < c.toNat ∨ EventKind.ofCode k.toNat = none) → n'.touched = n.touched ∧ n'.pressed = n.pressed ∧ h.link = s.hub.link) ∧
      ∀ (told : EventKind → Int → Bool → Hub → Link),
        (∀ kind value bound (g : Hub), told kind value bound g =
          if n.forward then g.link.post s.hub.clock.n (.surfaceEvent x.node c.toNat kind value stamp bound) else g.link) →
        c.toNat ≤ 63 →
        (k = 1 → n'.touched = n.touched ∧ n'.pressed = n.pressed ∧ h.link = told .fader (min v 1023 : Nat) false s.hub) ∧
        (k = 4 → n'.touched = n.touched ∧ n'.pressed = n.pressed ∧ h.link = told .encoder (max (-127) lo.toInt) false s.hub) ∧
        (k = 2 → n'.pressed = n.pressed ∧ h.link = told .touch (if v = 0 then 0 else 1) false s.hub ∧
          ∀ d, d ∈ n'.touched ↔ if d = c.toNat then v ≠ 0 else d ∈ n.touched) ∧
        (k = 3 → n'.touched = n.touched ∧ (∀ d, d ∈ n'.pressed ↔ if d = c.toNat then v ≠ 0 else d ∈ n.pressed) ∧
          ((∀ b, some b ∈ s.hub.surface.bindings → ¬ b.meets x.node c.toNat (decide (v ≠ 0))) →
            h.link = told .button (if v = 0 then 0 else 1) false s.hub ∧ Hub.Within [.surface, .link] s.hub h) ∧
          ∀ (before after : List (Option Binding)) (b : Binding) (i : Nat), s.hub.surface.bindings = before ++ some b :: after →
            (∀ d, (some d ∈ before ∨ some d ∈ after) → ¬ d.meets x.node c.toNat (decide (v ≠ 0))) →
            b.meets x.node c.toNat (decide (v ≠ 0)) → b.qualifier = none → b.action = .streamTrigger i →
            h.engine = (s.hub.trigger i stamp s.hub.clock.n .triggerBinding).engine ∧
            h.link = told .button (if v = 0 then 0 else 1) true (s.hub.trigger i stamp s.hub.clock.n .triggerBinding))

/-! ### Chapter 11: meters -/

/-- R171 to R173: SET_METER replaces source and settings and restarts peak and run; a changed source also restarts the ballistic and clip state,
and an unchanged one keeps it, with the hold counter limited to the new H. SET_METER_DISPLAY sets or removes the binding and makes the last
posted value absent. CLEAR_METERS zeroes M and clears the latch of the meters named, 1 to 32 of them with repeats as given, or of all whatever is named. -/
def Obligations.MeterCommands : Prop :=
  ∀ (s : State) (tag : Tag) (i : Nat) (m : Meter), s.hub.Ready → i < 32 → s.hub.meter i = some m →
    (∀ (src : Option PortSlot) (hold decay threshold clipRun : Nat) (body : List Byte), (∀ e, src = some e → e.port < 6 ∧ e.slot < 8) →
      hold < 256 → 1 ≤ decay → decay < 256 → 1 ≤ threshold → threshold ≤ 8388607 → 1 ≤ clipRun → clipRun ≤ 8 →
      body = oneByte i :: (match src with
        | none => [0, 0, 0]
        | some e => [1, oneByte e.port, oneByte e.slot]) ++ [oneByte hold, oneByte decay] ++ bytesOf 3 threshold ++ [oneByte clipRun] →
      ∃ m', exec (.setMeter tag body) s = s.answered (s.hub.putMeter i m') 0x60 tag .ok [] ∧
        m'.source = src ∧ m'.hold = hold ∧ m'.decay = decay ∧ m'.threshold = threshold ∧ m'.clipRun = clipRun ∧ m'.peak = 0 ∧ m'.run = 0 ∧
        m'.display = m.display ∧ m'.posted = m.posted ∧
        (src = m.source → m'.d16 = m.d16 ∧ m'.maxIndex = m.maxIndex ∧ m'.clipped = m.clipped ∧ m'.holdCount = min m.holdCount hold) ∧
        (src ≠ m.source → m'.d16 = 0 ∧ m'.maxIndex = 0 ∧ m'.clipped = false ∧ m'.holdCount = 0)) ∧
    (∀ d : Display, 1 ≤ d.node → d.node ≤ 16 → d.control ≤ 63 → 1 ≤ d.segments → d.segments ≤ 32 →
      exec (.setMeterDisplay tag [oneByte i, 1, oneByte d.node, oneByte d.control, oneByte d.segments]) s =
        s.answered (s.hub.putMeter i { m with display := some d, posted := none }) 0x61 tag .ok []) ∧
    (∀ x y z : Byte, exec (.setMeterDisplay tag [oneByte i, 0, x, y, z]) s =
      s.answered (s.hub.putMeter i { m with display := none, posted := none }) 0x61 tag .ok []) ∧
    (∀ names : List Nat, 1 ≤ names.length → names.length ≤ 32 → (∀ k ∈ names, k < 32) →
      ∃ ms : List Meter, exec (.clearMeters tag ([0, oneByte names.length] ++ names.map oneByte)) s =
          s.answered (s.hub.withMeters ms) 0x63 tag .ok [] ∧ ms.length = s.hub.meters.length ∧
        (i ∈ names → ms[i]? = some { m with maxIndex := 0, clipped := false }) ∧ (i ∉ names → ms[i]? = some m)) ∧
    ∀ names : List Byte, names.length < 256 → exec (.clearMeters tag ([1, oneByte names.length] ++ names)) s =
      s.answered (s.hub.withMeters (s.hub.meters.map (fun m => { m with maxIndex := 0, clipped := false }))) 0x63 tag .ok []

/-- R166: the level index of a period peak. For a nonzero peak, e is the number of its highest set bit and f the two bits below it, bits below bit
0 reading as 0: the index is 4e + f + 1. -/
def Obligations.LevelIndex : Prop :=
  levelIndex 0 = 0 ∧
    ∀ (p e : Nat), p ≤ 8388607 → 2 ^ e ≤ p → p < 2 ^ (e + 1) →
      ∀ f, f = 2 * (if 1 ≤ e then p / 2 ^ (e - 1) % 2 else 0) + (if 2 ≤ e then p / 2 ^ (e - 2) % 2 else 0) →
        levelIndex p = 4 * e + f + 1 ∧ levelIndex p ≤ 92

/-- R165, R167, R168: what a boundary at which no cue is due does to a meter with a source. When it ends a period, D16, the hold counter and M follow
the level index of the peak by R167's cases, and the new peak starts from the sample of frame p; otherwise the sample raises the peak. The
sample moves the clip run, and completing the run sets the latch and posts CLIP with the position p and the stamp p + 1, which joins the queue or replaces
the position of the meter's CLIP that waits (R180). A meter without a source is left alone.
R165: the sample is the one the slot's port outputs or yields for frame p, and 0 for a port that is not RUNNING, is UNUSED or lacks the slot. -/
def Obligations.MetersAtABoundary : Prop :=
  ∀ (s : State) (mCycles : Nat) (wire : List (List SlotWord)) (i : Nat) (m : Meter), s.hub.framesRun → s.hub.noCueDue → i < 32 →
    s.hub.meter i = some m →
    ∃ (h : Hub) (m' : Meter), exec (.frameBoundary mCycles wire) s = s.becomes h ∧ h.meter i = some m' ∧
      (m.source = none → m' = m) ∧
      ∀ (e : PortSlot) (mag level : Nat) (ends : Prop), m.source = some e → mag = min 8388607 (h.exchanged e).toInt.natAbs →
        level = levelIndex m.peak →
        (ends ↔ 0 < s.hub.clock.n ∧ s.hub.clock.n % (512 * s.hub.clock.rate.multiple) = 0) →
        m'.run = (if m.threshold ≤ mag then min m.clipRun (m.run + 1) else 0) ∧
        (m'.clipped = true ↔ m.clipped = true ∨ m.run < m.clipRun ∧ m'.run = m.clipRun) ∧
        (¬ ends → m'.peak = max m.peak mag ∧ m'.d16 = m.d16 ∧ m'.holdCount = m.holdCount ∧ m'.maxIndex = m.maxIndex ∧ m'.posted = m.posted) ∧
        (ends → m'.peak = mag ∧ m'.maxIndex = max m.maxIndex level ∧
          (m.d16 ≤ 16 * level → m'.d16 = 16 * level ∧ m'.holdCount = m.hold) ∧
          (16 * level < m.d16 → 0 < m.holdCount → m'.d16 = m.d16 ∧ m'.holdCount = m.holdCount - 1) ∧
          (16 * level < m.d16 → m.holdCount = 0 → m'.d16 = max (16 * level) (m.d16 - m.decay) ∧ m'.holdCount = 0)) ∧
        (m.run < m.clipRun → m'.run = m.clipRun → Link.Joined s.hub.link h.link (s.hub.clock.n + 1) (.clip i s.hub.clock.n) ∧
          ∀ q, Link.Updated s.hub.link h.link (s.hub.clock.n + 1) (.clip i q) (.clip i s.hub.clock.n)) ∧
        (h.port e.port = none → h.exchanged e = 0) ∧
        ∀ pt, e.port < 6 → h.port e.port = some pt →
          (pt.role = .unused ∨ pt.state ≠ .running ∨ pt.slots ≤ e.slot → h.exchanged e = 0) ∧
          (pt.role = .capture → h.exchanged e = pt.yielded.getD e.slot 0) ∧
          ∀ v, pt.role = .playback → pt.sdOut[e.slot]? = some (slotOf v) → h.exchanged e = v

/-- R165 to R170: a boundary that ends a meter period, with no cue due there. The display of each meter with a source hands floor(displayed × S / 92)
to its node when that is ONLINE and the count differs from the last posted value: the value of the queued setting of its key is replaced (and marked
when in flight), or the setting joins the end of the queue, or is dropped at 32. A node that no such display names is left alone, and at a boundary
that ends no period so is the whole surface. Each ARMED capture stream whose level watch the period's index meets is triggered with the first frame of the ending
period (R76), and posts STREAM_STATE with TRIGGER_LEVEL; any other stays ARMED. Model's choice: what counts as the last posted value when an update is
dropped, and that it is absent for a node that is not ONLINE (assumption log, 29). -/
def Obligations.DisplaysAndLevelWatches : Prop :=
  ∀ (s : State) (mCycles : Nat) (wire : List (List SlotWord)) (ends : Prop), s.hub.framesRun → s.hub.noCueDue →
    (ends ↔ 0 < s.hub.clock.n ∧ s.hub.clock.n % (512 * s.hub.clock.rate.multiple) = 0) →
    ∃ h : Hub, exec (.frameBoundary mCycles wire) s = s.becomes h ∧ (¬ ends → h.surface = s.hub.surface) ∧
      (∀ a n, s.hub.node a = some n → (∀ m d, m ∈ s.hub.meters → m.source ≠ none → m.display = some d → d.node ≠ a) → h.node a = some n) ∧
      (∀ (i : Nat) (m : Meter) (d : Display) (n : Node), i < 32 → s.hub.meter i = some m → m.source ≠ none → m.display = some d → ends →
        s.hub.node d.node = some n → ∃ m', h.meter i = some m' ∧ (n.state ≠ .online → m'.posted = none) ∧
          ∀ count, n.state = .online → count = m'.d16 / 16 * d.segments / 92 → m'.posted = some count ∧
            ((∀ j m₂ d₂, j ≠ i → s.hub.meter j = some m₂ → m₂.source ≠ none → m₂.display = some d₂ → d₂.node ≠ d.node) →
              ∃ q, h.node d.node = some { n with queue := q } ∧ (m.posted = some count → q = n.queue) ∧
                (m.posted ≠ some count → (∀ w ∈ n.queue, ¬ (w.control = d.control ∧ w.kind = .meter)) →
                  q = if n.queue.length < 32 then n.queue ++ [⟨d.control, .meter, count, false, false⟩] else n.queue) ∧
                (m.posted ≠ some count → (∃ w ∈ n.queue, w.control = d.control ∧ w.kind = .meter) → q.length = n.queue.length ∧
                  ∀ (k : Nat) (w : Setting), n.queue[k]? = some w → q[k]? = some (if w.control = d.control ∧ w.kind = .meter then
                    { w with value := count, replaced := w.replaced || w.inFlight } else w)))) ∧
      ∀ (k : Nat) (st : Stream) (w : Watch), k < 16 → s.hub.stream k = some st → st.desc.direction = .capture → st.state = .armed →
        st.desc.watch = some w → w.meter < 32 →
        (¬ (ends ∧ ∃ m, s.hub.meter w.meter = some m ∧ m.source ≠ none ∧ w.threshold ≤ levelIndex m.peak) →
          ∃ st', h.stream k = some st' ∧ st'.state = .armed) ∧
        (∀ m, ends → s.hub.meter w.meter = some m → m.source ≠ none → w.threshold ≤ levelIndex m.peak →
          ∀ (a b r x t : Nat) (e : Option Nat) (cl : Bool), st.arm = some a → st.desc.block = some b → 1 ≤ b → st.desc.preRoll = some r →
            t + 512 * s.hub.clock.rate.multiple = s.hub.clock.n →
            (x : Int) = max (max ((t : Int) - r) a) ((s.hub.clock.n : Int) - st.desc.capacity + b) → e = countedEnd st.desc.run x →
            cl = decide ((x : Int) ≠ (t : Int) - r) →
            ∃ st', h.stream k = some st' ∧ st'.start = some x ∧ st'.dp = some x ∧ st'.stop = e ∧ st'.clamped = cl ∧
              ((∀ y, e = some y → s.hub.clock.n < y) → st'.state = .running) ∧ (∀ y, e = some y → y ≤ s.hub.clock.n → st'.state = .draining) ∧
              ∃ l : Link, Link.Reports s.hub.link l ∧ Link.Reports (l.post (s.hub.clock.n + 1)
                (.streamState k .running .triggerLevel cl st.raised (some x) e)) h.link)

/-! ### Chapters 12 and 13: messages -/

/-- R17, R31, R47, R48, R104, R121, R132, R153, R163, R173, R182: the commands that report complete at acceptance and change no state but the reply:
GET_CLOCK, GET_OUTPUTS, GET_STREAM (refused NO_SUCH for a stream that is not defined), GET_POOL, LIST_CUES, GET_PORT, GET_CONTROL_BUS, GET_NODE, LIST_BINDINGS, READ_METERS with a record for each
number in the order given, repeats included, and DESCRIBE with its texts, revision and capacities. -/
def Obligations.Reports : Prop :=
  ∀ (s : State) (tag : Tag), s.hub.Ready →
    exec (.getClock tag []) s = s.answered s.hub 0x02 tag .ok
      ([oneByte s.hub.clock.source.code, oneByte s.hub.clock.rate.code, oneByte s.hub.clock.state.code,
          oneByte (match s.hub.clock.detected with
            | none => 255
            | some r => r.code)] ++
        bytesOf 6 s.hub.clock.n ++ bytesOf 2 s.hub.link.mark.frame.toNat ++ bytesOf 6 s.hub.link.mark.position) ∧
    exec (.getOutputs tag []) s =
      s.answered s.hub 0x11 tag .ok (s.hub.outputs.outs.flatMap ClockOut.record ++ s.hub.tallies.flatMap Tally.record) ∧
    (∀ i, i < 16 → s.hub.stream i = none → exec (.getStream tag [oneByte i]) s = s.answered s.hub 0x25 tag .noSuch []) ∧
    (∀ i st, i < 16 → s.hub.stream i = some st →
      exec (.getStream tag [oneByte i]) s = s.answered s.hub 0x25 tag .ok (st.bytes i s.hub.clock.n)) ∧
    (∃ (free longest : Nat) (runs : List PageRun), exec (.getPool tag []) s = s.answered s.hub 0x26 tag .ok
        (bytesOf 2 free ++ bytesOf 2 longest ++ [oneByte runs.length] ++
          runs.flatMap (fun r => [oneByte r.first] ++ bytesOf 2 r.length ++ [oneByte (r.owner.getD 255)])) ∧
      free = (s.hub.engine.pages.filter (fun o => o.isNone)).length ∧
      runs.flatMap (fun r => List.replicate r.length r.owner) = s.hub.engine.pages ∧
      (∀ r, runs.head? = some r → r.first = 0) ∧
      (∀ k r r', runs[k]? = some r → runs[k + 1]? = some r' → r'.first = r.first + r.length ∧ r'.owner ≠ r.owner) ∧
      (∀ r ∈ runs, r.owner = none → r.length ≤ longest) ∧ (longest = 0 ∨ ∃ r ∈ runs, r.owner = none ∧ r.length = longest)) ∧
    exec (.listCues tag []) s =
      s.answered s.hub 0x32 tag .ok (bytesOf 6 s.hub.clock.n ++ [oneByte s.hub.cues.length] ++ s.hub.cues.flatMap CueEntry.bytes) ∧
    (∀ i pt, i < 6 → s.hub.port i = some pt → exec (.getPort tag [oneByte i]) s = s.answered s.hub 0x44 tag .ok pt.bytes) ∧
    exec (.getControlBus tag []) s = s.answered s.hub 0x4A tag .ok
      ([flagByte s.hub.bus.stuck] ++ (match s.hub.bus.active with
        | none => List.replicate 14 0
        | some j => 1 :: j.record) ++ [oneByte s.hub.bus.waiting.length] ++ s.hub.bus.waiting.flatMap Job.record) ∧
    (∀ a n, 1 ≤ a → a ≤ 16 → s.hub.node a = some n → exec (.getNode tag [oneByte a]) s = s.answered s.hub 0x53 tag .ok n.bytes) ∧
    (∃ held : List (Nat × Binding), exec (.listBindings tag []) s =
        s.answered s.hub 0x5A tag .ok (oneByte held.length :: held.flatMap (fun e => e.2.bytes e.1)) ∧
      held.Pairwise (fun a b => a.1 < b.1) ∧ ∀ i b, (i, b) ∈ held ↔ s.hub.surface.bindings[i]? = some (some b)) ∧
    (∀ read : List (Nat × Meter), 1 ≤ read.length → read.length ≤ 32 → (∀ r ∈ read, r.1 < 32 ∧ s.hub.meter r.1 = some r.2) →
      exec (.readMeters tag (oneByte read.length :: read.map (fun r => oneByte r.1))) s = s.answered s.hub 0x62 tag .ok
        (oneByte read.length :: read.flatMap (fun r =>
          [oneByte r.1, oneByte (r.2.d16 / 16), oneByte r.2.maxIndex, flagByte r.2.clipped]))) ∧
    exec (.describe tag []) s = s.answered s.hub 0x70 tag .ok
      ([0x47, 0x65, 0x72, 0x61, 0x73, 0x6B, 0x6F, 0, 0x42, 0x4E, 0x32, 0x34, 0x34, 0x38, 0, 0, 3, 16, 16] ++ bytesOf 2 256 ++ bytesOf 2 1024 ++
        [4, 64, 6, 8, 16, 8, 16, 32, 64, 32, 32, 4, 4, 16, 32] ++ bytesOf 2 16400)

/-- R176, R186: a command whose body has not its length is refused MALFORMED; a command that is refused changes nothing and replies with no result
fields; a code that names no command is answered UNKNOWN_COMMAND. A body of the right length with a value out of its range is refused BAD_VALUE, and no other
body is. Model's choice: a CONVERTER_XFER of an undefined type has the length of its fixed fields, and is MALFORMED with any other (assumption log, 41). -/
def Obligations.RefusedCommandsChangeNothing : Prop :=
  ∀ (s : State) (code : Byte) (tag : Tag) (body : List Byte), s.hub.Ready →
    (∀ sh, shapeOf code.toNat = some sh → ¬ sh.holds body →
      exec (commandRow code tag body) s = s.answered s.hub code tag .malformed []) ∧
    (∀ (f : Handler) (h h' : Hub) (ctx : CommandCtx) (st : Status) (fields : List Byte), handlerOf code.toNat = some f →
      f h ctx body = (h', .reply st fields) → st ≠ .ok → h' = h ∧ fields = []) ∧
    (shapeOf code.toNat = none →
      exec (.unknownCommand code tag body) s = s.answered s.hub code tag .unknownCommand []) ∧
    ∀ sh, shapeOf code.toNat = some sh → sh.holds body → s.hub.tablesFit →
      (valueOut code.toNat body → exec (commandRow code tag body) s = s.answered s.hub code tag .badValue []) ∧
      ∀ (f : Handler) (h' : Hub) (ctx : CommandCtx) (fields : List Byte), handlerOf code.toNat = some f →
        f s.hub ctx body = (h', .reply .badValue fields) → valueOut code.toNat body

/-- R174, R176, R177: a packet that holds one whole message and ends its transfer does what the message's row does, for a command of any code and
for a play block. With all sixteen entries held a command waits, and DISPATCH_RESUME dispatches it once an entry is free.
R174, R175: a framing failure is reported and changes nothing else: a header whose check fails or that declares too long a body makes the rest
of the transfer be discarded, a body of another kind is skipped, and a transfer that ends within a message discards it.
R174: a message may span packets: a full packet within it adds its bytes to those gathered, a short one there ends the transfer (TRUNCATED), and the packet
with its last byte does what its row does. R174, R177: of two messages in one packet the second is taken after the first, or, when the first
took the last entry, pauses with the bytes behind it; DISPATCH_RESUME dispatches a paused command, then the message behind it.
R177, R183, R184: while RESET_N is low, the link is not configured or a command is paused, no packet, command or play block is taken, and nothing changes
(deduced for a command or play block that stands for a whole message: assumption log, 5); with all sixteen entries held no packet is. DISPATCH_RESUME does nothing
without a paused command or a free entry. -/
def Obligations.InboundMessages : Prop :=
  (∀ (s : State) (code : Byte) (tag : Tag) (bytes body : List Byte),
     ((s.hub.resetN = false ∨ s.hub.link.configured = false ∨ s.hub.link.paused ≠ none) → exec (.outPacket bytes) s = .next s ∧
       exec (commandRow code tag body) s = .next s ∧ exec (.playBlock body) s = .next s) ∧
     (16 ≤ s.hub.link.entriesHeld → exec (.outPacket bytes) s = .next s) ∧
     ((s.hub.resetN = false ∨ s.hub.link.paused = none ∨ 16 ≤ s.hub.link.entriesHeld) → exec .dispatchResume s = .next s)) ∧
  (∀ (s : State) (kind : Nat) (code : Byte) (tag : Tag) (body got p rest : List Byte) (row : Instr), s.hub.resetN = true →
     s.hub.link.configured = true → s.hub.link.paused = none → s.hub.link.entriesHeld < 16 → s.hub.link.behind = [] →
     s.hub.link.behindEnds = false → (kind = 1 ∧ row = commandRow code tag body ∨ kind = 2 ∧ row = .playBlock body) → body.length ≤ 16400 →
     messageBytes kind code tag body = got ++ p ++ rest → p ≠ [] → p.length ≤ 512 → s.hub.link.assembly = .gather got →
     (rest ≠ [] → p.length = 512 → exec (.outPacket p) s =
       s.becomes (s.hub.withLink { s.hub.link with assembly := .gather (got ++ p) })) ∧
     (rest ≠ [] → p.length < 512 → exec (.outPacket p) s =
       s.becomes ((s.hub.withLink { s.hub.link with assembly := .gather [] }).post (.linkError .truncated))) ∧
     (rest = [] → ∃ h : Hub, exec (.outPacket p) s = s.becomes h ∧
       exec row { s with hub := s.hub.withLink { s.hub.link with assembly := .gather [] } } = s.becomes h)) ∧
  (∀ (s : State) (code code₂ : Byte) (tag tag₂ : Tag) (body body₂ rest : List Byte), s.hub.resetN = true → s.hub.link.configured = true →
     s.hub.link.assembly = .gather [] → s.hub.link.entriesHeld < 16 → body.length ≤ 16400 → body₂.length ≤ 16400 →
     (s.hub.link.paused = none → s.hub.link.behind = [] → s.hub.link.behindEnds = false →
       (messageBytes 1 code tag body ++ messageBytes 1 code₂ tag₂ body₂ ++ rest).length ≤ 512 →
       ∃ h₁ : Hub, exec (commandRow code tag body) s = s.becomes h₁ ∧
         (h₁.link.entriesHeld < 16 → exec (.outPacket (messageBytes 1 code tag body ++ messageBytes 1 code₂ tag₂ body₂)) s =
           exec (commandRow code₂ tag₂ body₂) { s with hub := h₁ }) ∧
         (h₁.link.entriesHeld = 16 → exec (.outPacket (messageBytes 1 code tag body ++ messageBytes 1 code₂ tag₂ body₂ ++ rest)) s =
           s.becomes (h₁.withLink { h₁.link with
             paused := some ⟨code₂, tag₂, body₂⟩, behind := rest
             behindEnds := decide ((messageBytes 1 code tag body ++ messageBytes 1 code₂ tag₂ body₂ ++ rest).length < 512) }))) ∧
     (s.hub.link.paused = some ⟨code, tag, body⟩ → s.hub.link.behind = messageBytes 1 code₂ tag₂ body₂ →
       ∃ h₁ : Hub, exec (commandRow code tag body)
           { s with hub := s.hub.withLink { s.hub.link with paused := none, behind := [], behindEnds := false } } = s.becomes h₁ ∧
         (h₁.link.entriesHeld < 16 → ∃ h : Hub, exec .dispatchResume s = s.becomes h ∧
           exec (commandRow code₂ tag₂ body₂) { s with hub := h₁ } = s.becomes h))) ∧
  (∀ (s : State) (code : Byte) (tag : Tag) (body : List Byte), s.hub.resetN = true → s.hub.link.configured = true →
     (s.hub.link.paused = none → s.hub.link.assembly = .gather [] → s.hub.link.behind = [] → s.hub.link.behindEnds = false →
       body.length < 506 → s.hub.link.entriesHeld < 16 → s.hub.link.serial ∉ s.hub.link.held →
       (∃ h : Hub, exec (.outPacket (messageBytes 1 code tag body)) s = s.becomes h ∧ exec (commandRow code tag body) s = s.becomes h) ∧
       ∃ h : Hub, exec (.outPacket (messageBytes 2 code tag body)) s = s.becomes h ∧ exec (.playBlock body) s = s.becomes h) ∧
     (s.hub.link.paused = none → s.hub.link.entriesHeld = 16 → exec (commandRow code tag body) s =
       s.becomes (s.hub.withLink { s.hub.link with paused := some ⟨code, tag, body⟩ })) ∧
     (s.hub.link.paused = some ⟨code, tag, body⟩ → s.hub.link.assembly = .gather [] → s.hub.link.behind = [] →
       s.hub.link.entriesHeld < 16 → s.hub.link.serial ∉ s.hub.link.held →
       ∃ h : Hub, exec .dispatchResume s = s.becomes h ∧
         exec (commandRow code tag body) { s with hub := s.hub.withLink { s.hub.link with paused := none, behindEnds := false } } =
           s.becomes h)) ∧
  (∀ (s : State) (b0 : Byte) (rest : List Byte), s.hub.resetN = true → s.hub.link.configured = true → s.hub.link.paused = none →
     s.hub.link.assembly = .gather [] → s.hub.link.behind = [] → s.hub.link.behindEnds = false → s.hub.link.entriesHeld < 16 →
     ∀ failed : LinkErrorKind → Host.Outcome State Fault Refusal,
       (∀ k, failed k = s.becomes (s.hub.post (.linkError k))) →
       (rest.length < 5 → exec (.outPacket (b0 :: rest)) s = failed .truncated) ∧
       (5 ≤ rest.length → rest.length < 511 → b0 ≠ kindByte (b0.toNat % 16) → exec (.outPacket (b0 :: rest)) s = failed .badCheck) ∧
       (5 ≤ rest.length → rest.length < 511 → b0 = kindByte (b0.toNat % 16) → 16400 < fieldAt rest 3 2 →
         exec (.outPacket (b0 :: rest)) s = failed .tooLong) ∧
       (5 ≤ rest.length → rest.length < 511 → b0 = kindByte (b0.toNat % 16) → b0.toNat % 16 ≠ 1 → b0.toNat % 16 ≠ 2 →
         rest.length = 5 + fieldAt rest 3 2 → exec (.outPacket (b0 :: rest)) s = failed .badKind) ∧
       (5 ≤ rest.length → rest.length < 511 → (b0 = kindByte 1 ∨ b0 = kindByte 2) → rest.length < 5 + fieldAt rest 3 2 →
         fieldAt rest 3 2 ≤ 16400 → exec (.outPacket (b0 :: rest)) s = failed .truncated))

/-- Chapter 13's command table (R185, R186): the fields of the records of GET_OUTPUTS, GET_STREAM, GET_PORT, GET_CONTROL_BUS and GET_NODE, of a cue entry (LIST_CUES) and
of a binding (LIST_BINDINGS), in order and each of its width; an optional field is a presence byte and the value, zero when absent, and a
parameter byte that an action does not use is 0. The codes of its enumerated fields are those of the code table.
The records that the computer writes too, the part reads back as what they were: cue entries, tally settings, descriptors, bindings and init lists, and every number
in a field of its width. Model's choice: the bits of a setting's marks without a meaning are 0
(assumption log, 56). -/
def Obligations.RecordsReadBack : Prop :=
  (∀ o : ClockOut, o.record = [oneByte o.choice.code, flagByte o.inv, flagByte o.enable, oneByte o.state.code] ++ match o.staged with
     | none => [0, 0, 0]
     | some c => [1, oneByte c.choice.code, flagByte c.inv]) ∧
  (∀ t : Tally, t.record = [oneByte t.state.code] ++ [t.settings, t.staged].flatMap (fun c => match c with
     | none => List.replicate 17 0
     | some c => [1, oneByte c.mode.code] ++ bytesOf 6 c.start ++ bytesOf 4 c.width ++ bytesOf 4 c.period ++ [oneByte c.polarity.code]) ++
     (match t.edge with
     | none => List.replicate 7 0
     | some e => 1 :: bytesOf 6 e)) ∧
  (∀ (st : Stream) (i n : Nat) (opt : Option Nat → List Byte) (left : Nat),
     (∀ o, opt o = match o with
       | none => List.replicate 7 0
       | some v => 1 :: bytesOf 6 v) →
     (∀ d, st.desc.direction = .capture → st.dp = some d → (st.state = .running → left = n - d) ∧
       ∀ e, st.state = .draining → st.stop = some e → left = e - d) →
     (st.desc.direction = .play ∨ st.state = .idle ∨ st.state = .armed ∨ st.state = .halted → left = 0) →
     (st.desc.direction = .capture → st.state = .running → st.dp ≠ none) →
     (st.desc.direction = .capture → st.state = .draining → st.dp ≠ none ∧ st.stop ≠ none) → st.marks.length ≤ 4 →
     st.bytes i n = st.desc.bytes i ++ [oneByte st.state.code, oneByte st.allowance, oneByte st.firstPage] ++ bytesOf 2 st.pageCount ++
       opt st.arm ++ opt st.start ++ opt st.stop ++ [flagByte st.clamped, flagByte st.muted, oneByte st.marks.length] ++
       st.marks.flatMap (fun m => bytesOf 6 m) ++ List.replicate (6 * (4 - st.marks.length)) 0 ++ bytesOf 2 st.gapRun ++
       bytesOf 2 st.written.length ++ opt st.dp ++ bytesOf 2 left) ∧
  (∀ (d : Descriptor) (i : Nat), d.bytes i = [oneByte i, oneByte d.direction.code, oneByte d.format.code] ++ bytesOf 2 d.capacity ++
     bytesOf 2 (d.block.getD 0) ++ (match d.fill with
       | some (.hold l) => 1 :: bytesOf 2 l
       | _ => [0, 0, 0]) ++ (match d.run with
       | .continuous => [0, 0, 0, 0, 0]
       | .counted l => 1 :: bytesOf 4 l) ++ bytesOf 2 (d.preRoll.getD 0) ++ (match d.watch with
       | none => [0, 0, 0]
       | some w => [1, oneByte w.meter, oneByte w.threshold]) ++ [oneByte d.reload, oneByte d.map.length] ++
     d.map.flatMap (fun e => [oneByte e.port, oneByte e.slot, 0, 0])) ∧
  (∀ pt : Port, pt.bytes = [oneByte pt.role.code, oneByte pt.slots] ++ bytesOf 2 pt.settle ++ [oneByte pt.state.code] ++
     (match pt.remaining with
       | none => [0, 0, 0]
       | some r => 1 :: bytesOf 2 r) ++ (match pt.failure with
       | none => [0, 0, 0, 0]
       | some f => [1, oneByte f.entry, oneByte f.reason.code, oneByte f.byteIndex]) ++ [oneByte pt.initList.length] ++
     pt.initList.flatMap (fun e => [oneByte e.addr, e.reg, e.value, flagByte e.enabled])) ∧
  (∀ (tag : Tag) (entry : Nat) (tx : Transaction) (ending recovery : Bool) (done : Nat),
     Job.record ⟨.xfer tag entry tx, ending, recovery, done⟩ =
       [0] ++ bytesOf 2 tag.toNat ++ List.replicate 7 0 ++ [flagByte ending, flagByte recovery, 0]) ∧
  (∀ (tag due fire : Nat) (notify late skipped : Bool) (a : Nat) (data : List Byte) (ending recovery : Bool) (done : Nat),
     Job.record ⟨.cue tag due fire notify late skipped a data, ending, recovery, done⟩ =
       [1] ++ bytesOf 2 tag ++ bytesOf 6 fire ++ [0, flagByte ending, flagByte recovery, 0]) ∧
  (∀ (port : Nat) (writes : List InitWrite) (detached ending recovery : Bool) (done : Nat),
     Job.record ⟨.init port writes detached, ending, recovery, done⟩ =
       [2] ++ List.replicate 8 0 ++ [oneByte port, flagByte ending, flagByte recovery, flagByte detached]) ∧
  (∀ n : Node, n.bytes = [oneByte n.state.code, oneByte n.allowance, oneByte n.reload, flagByte n.forward, flagByte n.toggle,
       flagByte n.resetPending, flagByte n.resetCommand.isSome, oneByte n.rounds, oneByte n.queue.length] ++
     n.queue.flatMap (fun w => [oneByte w.control, oneByte w.kind.code] ++ bytesOf 2 w.value ++
       [oneByte ((if w.kind = .motor ∧ w.control ∈ n.touched then 1 else 0) + (if w.inFlight then 2 else 0) + if w.replaced then 4 else 0)]) ++
     [oneByte n.touched.length] ++ n.touched.map oneByte ++ [oneByte n.pressed.length] ++ n.pressed.map oneByte) ∧
  (∀ e : CueEntry, e.fits → ∃ (code : Nat) (used : List Byte),
     e.bytes = bytesOf 2 e.tag ++ bytesOf 6 e.due ++ [oneByte code, oneByte e.policy.code, flagByte e.notify] ++ bytesOf 4 e.interval ++
       bytesOf 2 e.repeats ++ used ++ List.replicate (8 - used.length) 0 ∧
     match e.action with
     | .streamTrigger i => code = 0 ∧ used = [oneByte i]
     | .streamStop i => code = 1 ∧ used = [oneByte i]
     | .streamMute i on => code = 2 ∧ used = [oneByte i, flagByte on]
     | .converterWrite a data => code = 3 ∧ used = [oneByte a, oneByte data.length] ++ data
     | .surfaceWrite a c k v => code = 4 ∧ used = [oneByte a, oneByte c, oneByte k.code] ++ bytesOf 2 v
     | .clockOutput o on => code = 5 ∧ used = [oneByte o, flagByte on]
     | .tallyRun u => code = 6 ∧ used = [oneByte u, 0]
     | .tallyStop u => code = 6 ∧ used = [oneByte u, 1]
     | .clearClips => code = 7 ∧ used = []) ∧
  (∀ (b : Binding) (i : Nat), b.bytes i = [oneByte i, oneByte b.key.node, oneByte b.key.control, oneByte b.edge.code] ++
     (match b.qualifier with
       | none => [0, 0, 0]
       | some q => [1, oneByte q.node, oneByte q.control]) ++
     match b.action with
       | .streamTrigger j => 0 :: bytesOf 2 j
       | .streamStop j => 1 :: bytesOf 2 j
       | .streamMuteToggle j => 2 :: bytesOf 2 j
       | .clearClips => [3, 0, 0]
       | .cueFire tag => 4 :: bytesOf 2 tag) ∧
  ([Source.internal, .wordIn, .linkFrame].map Source.code = [0, 1, 2] ∧
     [Rate.r44, .r48, .r88, .r96, .r176, .r192].map Rate.code = [0, 1, 2, 3, 4, 5] ∧
     [ClockState.internal, .acquiring, .locked, .holdover].map ClockState.code = [0, 1, 2, 3] ∧
     [ClockReason.locked, .referenceLost, .noReference, .rateMismatch, .acquireTimeout, .sourceChanged].map ClockReason.code =
       [0, 1, 2, 3, 4, 5] ∧
     [Choice.off, .m, .m2, .m4, .m8, .m16, .word].map Choice.code = [0, 1, 2, 3, 4, 5, 6] ∧
     [OutState.quiet, .starting, .running, .closing, .paused].map OutState.code = [0, 1, 2, 3, 4] ∧
     [TallyMode.oneshot, .periodic].map TallyMode.code = [0, 1] ∧ [Polarity.activeHigh, .activeLow].map Polarity.code = [0, 1] ∧
     [TallyState.stopped, .waiting, .active, .resting].map TallyState.code = [0, 1, 2, 3] ∧
     [Direction.play, .capture].map Direction.code = [0, 1] ∧ [Format.s16, .s24, .s32].map Format.code = [0, 1, 2] ∧
     [StreamState.idle, .armed, .running, .draining, .halted].map StreamState.code = [0, 1, 2, 3, 4] ∧
     [StreamReason.arm, .triggerCommand, .triggerCue, .triggerBinding, .triggerLevel, .stopped, .countDone, .abandoned, .allowance].map
       StreamReason.code = [0, 1, 2, 3, 4, 5, 6, 7, 8] ∧
     [BlockReason.noStream, .notArmed, .malformed, .late, .early, .headTrimmed, .tailTruncated].map BlockReason.code =
       [0, 1, 2, 3, 4, 5, 6] ∧
     [LatePolicy.fire, .drop].map LatePolicy.code = [0, 1] ∧
     [CueResult.ok, .noSuch, .notApplicable, .queueFull, .nodeNotOnline, .noAckAddress, .noAckData, .busStuck].map CueResult.code =
       [0, 1, 2, 3, 4, 5, 6, 7] ∧
     [FlushCause.rateChange, .command].map FlushCause.code = [0, 1] ∧ [Role.unused, .capture, .playback].map Role.code = [0, 1, 2] ∧
     [PortState.off, .init, .settling, .running, .fault].map PortState.code = [0, 1, 2, 3, 4] ∧
     [PortReason.start, .initDone, .settled, .stopped, .noAckAddress, .noAckData, .busStuck].map PortReason.code = [0, 1, 2, 3, 4, 5, 6] ∧
     [NodeState.disabled, .online, .offline, .halted].map NodeState.code = [0, 1, 2, 3] ∧
     [NodeReason.allowance, .babble, .halted, .recovered, .resetOk].map NodeReason.code = [0, 1, 2, 3, 4] ∧
     [EventKind.fader, .touch, .button, .encoder].map EventKind.code = [1, 2, 3, 4] ∧
     [SettingKind.led, .motor, .meter].map SettingKind.code = [16, 17, 18] ∧ [Edge.press, .release].map Edge.code = [0, 1] ∧
     [LinkErrorKind.badCheck, .badKind, .tooLong, .truncated].map LinkErrorKind.code = [0, 1, 2, 3]) ∧
  (∀ w n off : Nat, ∀ before after : List Byte, n < 256 ^ w → before.length = off → fieldAt (before ++ bytesOf w n ++ after) off w = n) ∧
    (∀ e : CueEntry, e.fits → cueOf e.bytes = some e) ∧
    (∀ (c : TallySettings) (x : Byte), c.fits → tallySettingsOf (x :: c.bytes) 1 = some c) ∧
    (∀ (d : Descriptor) (i : Nat), i < 16 → d.fits → descriptorOf (d.bytes i) = some d ∧ byteAt (d.bytes i) 0 = i) ∧
    (∀ (b : Binding) (i : Nat), i < 32 → b.fits → bindingOf (b.bytes i) = some b ∧ byteAt (b.bytes i) 0 = i) ∧
    ∀ (l : List InitEntry) (x y : Byte), (∀ e ∈ l, e.addr ≤ 127) → initEntriesOf (x :: y :: l.flatMap InitEntry.bytes) 2 l.length = some l

/-! ### Conditions that every step keeps -/

/-- Every command has a next state, touches only the blocks its row names, and leaves the waiting commands alone. -/
def Obligations.CommandFrames : Prop :=
  ∀ (c : Instr) (s : State), ∃ h : Hub, exec c s = s.becomes h ∧ Hub.Within (touches c) s.hub h

/-- R1, R2: N advances by one at a frame boundary, is set to 0 by a reset and by a rate change, and by nothing else: a message on the link sets it
to 0 only when it is SET_CLOCK or RESET_PART. The held and the steered correction stay in the pull range. -/
def Obligations.TimelineKept : Prop :=
  ∀ s t : State, step s = .next t →
    (t.hub.clock.n = s.hub.clock.n ∨
      (t.hub.clock.n = s.hub.clock.n + 1 ∧ ∃ m w rest, s.pending = .frameBoundary m w :: rest) ∨
      (t.hub.clock.n = 0 ∧ ∃ c rest, s.pending = c :: rest ∧ mayZeroN s.hub c ∧
        ∀ tag body, c = .setClock tag body → t.hub.clock.rate ≠ s.hub.clock.rate ∧ s.hub.rateFree)) ∧
    (s.hub.clock.correctionFits → t.hub.clock.correctionFits)

/-- R180, R177, R91: every step keeps the notice queue at 32 notices with no key twice, the reply entries at 16, each its own number, and the cue
queue at 64 entries in order of due position with no tag twice and none due before N. The numbers of reply entries are the model's own (assumption
log, 39). -/
def Obligations.QueuesKept : Prop :=
  ∀ s t : State, step s = .next t →
    (s.hub.link.noticesFit → t.hub.link.noticesFit) ∧ (s.hub.link.entriesFit → t.hub.link.entriesFit) ∧ (s.hub.cuesFit → t.hub.cuesFit)

/-- R124, R138, R164, R182: every step keeps the bounds of the control bus jobs, the rules of node records and write queues, the ranges of the
meters, and the sizes of the tables. R153: with them the lists of controls touched and of controls pressed that GET_NODE reports stay in ascending order, none twice. -/
def Obligations.TablesKept : Prop :=
  ∀ s t : State, step s = .next t →
    (s.hub.bus.fits → t.hub.bus.fits) ∧ (s.hub.surfaceFits → t.hub.surfaceFits) ∧
      ((∀ m ∈ s.hub.meters, m.fits) → ∀ m ∈ t.hub.meters, m.fits) ∧ (s.hub.tablesFit → t.hub.tablesFit)

/-- R33, R35, R36, R43: every step keeps the descriptors in range, the page map and the streams' runs in agreement, no playback slot claimed twice,
the allowances within their reloads with HALTED exactly at 0, and the pool in its canonical form, which is the model's own (assumption log, 20). -/
def Obligations.StreamTableKept : Prop :=
  ∀ s t : State, step s = .next t → s.hub.tablesFit →
    (s.hub.descriptorsFit → t.hub.descriptorsFit) ∧ (s.hub.pagesFit → t.hub.pagesFit) ∧
      (s.hub.engine.claimsFit → t.hub.engine.claimsFit) ∧ (s.hub.engine.allowancesFit → t.hub.engine.allowancesFit) ∧
      (poolWf s.hub.engine.pool = true → poolWf t.hub.engine.pool = true)

/-- R50, R79: every step keeps the written frames of an ARMED or RUNNING PLAY stream within the window, and the delivery position of a CAPTURE
stream within its bounds. -/
def Obligations.RingsKept : Prop :=
  ∀ s t : State, step s = .next t → s.hub.tablesFit → s.hub.descriptorsFit → s.hub.cuesFit →
    (s.hub.windowFits → t.hub.windowFits) ∧ (s.hub.deliveryFits → t.hub.deliveryFits)

/-- After power-on reset every block holds its reset values (R18, R25, R30, R32, R36, R91, R108, R133, R137, R154, R160, R164, R183), and every condition
that the steps keep holds. -/
def Obligations.ResetState : Prop :=
  State.reset.pending = [] ∧ State.reset.hub.clock.n = 0 ∧ State.reset.hub.clock.source = .internal ∧ State.reset.hub.clock.rate = .r48 ∧
    State.reset.hub.clock.state = .internal ∧ State.reset.hub.clock.detected = some .r48 ∧ State.reset.hub.clock.held = ⟨1, 1⟩ ∧
    (∀ o ∈ State.reset.hub.outputs.outs, o.choice = .off ∧ o.inv = false ∧ o.enable = false ∧ o.state = .quiet ∧ o.staged = none) ∧
    (∀ t ∈ State.reset.hub.tallies, t.settings = none ∧ t.staged = none ∧ t.state = .stopped ∧ t.pin = false) ∧
    (∀ i, State.reset.hub.stream i = none) ∧ State.reset.hub.engine.pages = List.replicate 256 none ∧ State.reset.hub.engine.claims = [] ∧
    State.reset.hub.cues = [] ∧
    (∀ p ∈ State.reset.hub.ports, p.role = .unused ∧ p.slots = 2 ∧ p.settle = 0 ∧ p.initList = [] ∧ p.state = .off ∧ p.failure = none) ∧
    State.reset.hub.bus.active = none ∧ State.reset.hub.bus.waiting = [] ∧ State.reset.hub.bus.stuck = false ∧
    (∀ n ∈ State.reset.hub.surface.nodes, n = { n with
      state := .disabled, reload := 3, allowance := 3, forward := true, toggle := false, resetPending := false, resetCommand := none
      queue := [], touched := [], pressed := [], rounds := 0 }) ∧
    State.reset.hub.surface.bindings = List.replicate 32 none ∧
    (∀ m ∈ State.reset.hub.meters, m.source = none ∧ m.hold = 20 ∧ m.decay = 2 ∧ m.threshold = 8388607 ∧ m.clipRun = 3 ∧ m.d16 = 0 ∧
      m.holdCount = 0 ∧ m.maxIndex = 0 ∧ m.clipped = false ∧ m.run = 0 ∧ m.peak = 0 ∧ m.display = none ∧ m.posted = none) ∧
    State.reset.hub.link.configured = false ∧ State.reset.hub.link.entriesHeld = 0 ∧ State.reset.hub.link.notices = [] ∧
    State.reset.hub.link.lost = false ∧ State.reset.hub.link.count = 0 ∧ State.reset.hub.link.sending = none ∧
    State.reset.hub.link.mark = ⟨0, 0⟩ ∧ State.reset.hub.link.assembly = .gather [] ∧
    State.reset.hub.clock.correctionFits ∧ State.reset.hub.link.noticesFit ∧ State.reset.hub.link.entriesFit ∧ State.reset.hub.cuesFit ∧
    State.reset.hub.bus.fits ∧ State.reset.hub.surfaceFits ∧ (∀ m ∈ State.reset.hub.meters, m.fits) ∧ State.reset.hub.tablesFit ∧
    State.reset.hub.descriptorsFit ∧ State.reset.hub.pagesFit ∧ State.reset.hub.engine.claimsFit ∧ State.reset.hub.engine.allowancesFit ∧
    poolWf State.reset.hub.engine.pool = true ∧ State.reset.hub.windowFits ∧ State.reset.hub.deliveryFits
end

