-- ==== Sys2Proof/Laws/State.lean ====
section
/-! SUPPORT. One lemma per field per update of `Hub`, each true by unfolding, so that no later proof unfolds a record update. -/

namespace Sys2Proof.Machine

section withClock

variable (h : Hub) (c : MediaClock)

@[simp] theorem Hub.withClock_resetN : (h.withClock c).resetN = h.resetN := rfl
@[simp] theorem Hub.withClock_clock : (h.withClock c).clock = c := rfl
@[simp] theorem Hub.withClock_outputs : (h.withClock c).outputs = h.outputs := rfl
@[simp] theorem Hub.withClock_tallies : (h.withClock c).tallies = h.tallies := rfl
@[simp] theorem Hub.withClock_engine : (h.withClock c).engine = h.engine := rfl
@[simp] theorem Hub.withClock_cues : (h.withClock c).cues = h.cues := rfl
@[simp] theorem Hub.withClock_ports : (h.withClock c).ports = h.ports := rfl
@[simp] theorem Hub.withClock_bus : (h.withClock c).bus = h.bus := rfl
@[simp] theorem Hub.withClock_surface : (h.withClock c).surface = h.surface := rfl
@[simp] theorem Hub.withClock_meters : (h.withClock c).meters = h.meters := rfl
@[simp] theorem Hub.withClock_link : (h.withClock c).link = h.link := rfl
@[simp] theorem Hub.withClock_draws : (h.withClock c).draws = h.draws := rfl

end withClock

section withOutputs

variable (h : Hub) (o : OutputUnit)

@[simp] theorem Hub.withOutputs_resetN : (h.withOutputs o).resetN = h.resetN := rfl
@[simp] theorem Hub.withOutputs_clock : (h.withOutputs o).clock = h.clock := rfl
@[simp] theorem Hub.withOutputs_outputs : (h.withOutputs o).outputs = o := rfl
@[simp] theorem Hub.withOutputs_tallies : (h.withOutputs o).tallies = h.tallies := rfl
@[simp] theorem Hub.withOutputs_engine : (h.withOutputs o).engine = h.engine := rfl
@[simp] theorem Hub.withOutputs_cues : (h.withOutputs o).cues = h.cues := rfl
@[simp] theorem Hub.withOutputs_ports : (h.withOutputs o).ports = h.ports := rfl
@[simp] theorem Hub.withOutputs_bus : (h.withOutputs o).bus = h.bus := rfl
@[simp] theorem Hub.withOutputs_surface : (h.withOutputs o).surface = h.surface := rfl
@[simp] theorem Hub.withOutputs_meters : (h.withOutputs o).meters = h.meters := rfl
@[simp] theorem Hub.withOutputs_link : (h.withOutputs o).link = h.link := rfl
@[simp] theorem Hub.withOutputs_draws : (h.withOutputs o).draws = h.draws := rfl

end withOutputs

section withTallies

variable (h : Hub) (t : List Tally)

@[simp] theorem Hub.withTallies_resetN : (h.withTallies t).resetN = h.resetN := rfl
@[simp] theorem Hub.withTallies_clock : (h.withTallies t).clock = h.clock := rfl
@[simp] theorem Hub.withTallies_outputs : (h.withTallies t).outputs = h.outputs := rfl
@[simp] theorem Hub.withTallies_tallies : (h.withTallies t).tallies = t := rfl
@[simp] theorem Hub.withTallies_engine : (h.withTallies t).engine = h.engine := rfl
@[simp] theorem Hub.withTallies_cues : (h.withTallies t).cues = h.cues := rfl
@[simp] theorem Hub.withTallies_ports : (h.withTallies t).ports = h.ports := rfl
@[simp] theorem Hub.withTallies_bus : (h.withTallies t).bus = h.bus := rfl
@[simp] theorem Hub.withTallies_surface : (h.withTallies t).surface = h.surface := rfl
@[simp] theorem Hub.withTallies_meters : (h.withTallies t).meters = h.meters := rfl
@[simp] theorem Hub.withTallies_link : (h.withTallies t).link = h.link := rfl
@[simp] theorem Hub.withTallies_draws : (h.withTallies t).draws = h.draws := rfl

end withTallies

section withEngine

variable (h : Hub) (e : StreamEngine)

@[simp] theorem Hub.withEngine_resetN : (h.withEngine e).resetN = h.resetN := rfl
@[simp] theorem Hub.withEngine_clock : (h.withEngine e).clock = h.clock := rfl
@[simp] theorem Hub.withEngine_outputs : (h.withEngine e).outputs = h.outputs := rfl
@[simp] theorem Hub.withEngine_tallies : (h.withEngine e).tallies = h.tallies := rfl
@[simp] theorem Hub.withEngine_engine : (h.withEngine e).engine = e := rfl
@[simp] theorem Hub.withEngine_cues : (h.withEngine e).cues = h.cues := rfl
@[simp] theorem Hub.withEngine_ports : (h.withEngine e).ports = h.ports := rfl
@[simp] theorem Hub.withEngine_bus : (h.withEngine e).bus = h.bus := rfl
@[simp] theorem Hub.withEngine_surface : (h.withEngine e).surface = h.surface := rfl
@[simp] theorem Hub.withEngine_meters : (h.withEngine e).meters = h.meters := rfl
@[simp] theorem Hub.withEngine_link : (h.withEngine e).link = h.link := rfl
@[simp] theorem Hub.withEngine_draws : (h.withEngine e).draws = h.draws := rfl

end withEngine

section withCues

variable (h : Hub) (c : List CueEntry)

@[simp] theorem Hub.withCues_resetN : (h.withCues c).resetN = h.resetN := rfl
@[simp] theorem Hub.withCues_clock : (h.withCues c).clock = h.clock := rfl
@[simp] theorem Hub.withCues_outputs : (h.withCues c).outputs = h.outputs := rfl
@[simp] theorem Hub.withCues_tallies : (h.withCues c).tallies = h.tallies := rfl
@[simp] theorem Hub.withCues_engine : (h.withCues c).engine = h.engine := rfl
@[simp] theorem Hub.withCues_cues : (h.withCues c).cues = c := rfl
@[simp] theorem Hub.withCues_ports : (h.withCues c).ports = h.ports := rfl
@[simp] theorem Hub.withCues_bus : (h.withCues c).bus = h.bus := rfl
@[simp] theorem Hub.withCues_surface : (h.withCues c).surface = h.surface := rfl
@[simp] theorem Hub.withCues_meters : (h.withCues c).meters = h.meters := rfl
@[simp] theorem Hub.withCues_link : (h.withCues c).link = h.link := rfl
@[simp] theorem Hub.withCues_draws : (h.withCues c).draws = h.draws := rfl

end withCues

section withPorts

variable (h : Hub) (p : List Port)

@[simp] theorem Hub.withPorts_resetN : (h.withPorts p).resetN = h.resetN := rfl
@[simp] theorem Hub.withPorts_clock : (h.withPorts p).clock = h.clock := rfl
@[simp] theorem Hub.withPorts_outputs : (h.withPorts p).outputs = h.outputs := rfl
@[simp] theorem Hub.withPorts_tallies : (h.withPorts p).tallies = h.tallies := rfl
@[simp] theorem Hub.withPorts_engine : (h.withPorts p).engine = h.engine := rfl
@[simp] theorem Hub.withPorts_cues : (h.withPorts p).cues = h.cues := rfl
@[simp] theorem Hub.withPorts_ports : (h.withPorts p).ports = p := rfl
@[simp] theorem Hub.withPorts_bus : (h.withPorts p).bus = h.bus := rfl
@[simp] theorem Hub.withPorts_surface : (h.withPorts p).surface = h.surface := rfl
@[simp] theorem Hub.withPorts_meters : (h.withPorts p).meters = h.meters := rfl
@[simp] theorem Hub.withPorts_link : (h.withPorts p).link = h.link := rfl
@[simp] theorem Hub.withPorts_draws : (h.withPorts p).draws = h.draws := rfl

end withPorts

section withBus

variable (h : Hub) (b : ControlBus)

@[simp] theorem Hub.withBus_resetN : (h.withBus b).resetN = h.resetN := rfl
@[simp] theorem Hub.withBus_clock : (h.withBus b).clock = h.clock := rfl
@[simp] theorem Hub.withBus_outputs : (h.withBus b).outputs = h.outputs := rfl
@[simp] theorem Hub.withBus_tallies : (h.withBus b).tallies = h.tallies := rfl
@[simp] theorem Hub.withBus_engine : (h.withBus b).engine = h.engine := rfl
@[simp] theorem Hub.withBus_cues : (h.withBus b).cues = h.cues := rfl
@[simp] theorem Hub.withBus_ports : (h.withBus b).ports = h.ports := rfl
@[simp] theorem Hub.withBus_bus : (h.withBus b).bus = b := rfl
@[simp] theorem Hub.withBus_surface : (h.withBus b).surface = h.surface := rfl
@[simp] theorem Hub.withBus_meters : (h.withBus b).meters = h.meters := rfl
@[simp] theorem Hub.withBus_link : (h.withBus b).link = h.link := rfl
@[simp] theorem Hub.withBus_draws : (h.withBus b).draws = h.draws := rfl

end withBus

section withSurface

variable (h : Hub) (s : Surface)

@[simp] theorem Hub.withSurface_resetN : (h.withSurface s).resetN = h.resetN := rfl
@[simp] theorem Hub.withSurface_clock : (h.withSurface s).clock = h.clock := rfl
@[simp] theorem Hub.withSurface_outputs : (h.withSurface s).outputs = h.outputs := rfl
@[simp] theorem Hub.withSurface_tallies : (h.withSurface s).tallies = h.tallies := rfl
@[simp] theorem Hub.withSurface_engine : (h.withSurface s).engine = h.engine := rfl
@[simp] theorem Hub.withSurface_cues : (h.withSurface s).cues = h.cues := rfl
@[simp] theorem Hub.withSurface_ports : (h.withSurface s).ports = h.ports := rfl
@[simp] theorem Hub.withSurface_bus : (h.withSurface s).bus = h.bus := rfl
@[simp] theorem Hub.withSurface_surface : (h.withSurface s).surface = s := rfl
@[simp] theorem Hub.withSurface_meters : (h.withSurface s).meters = h.meters := rfl
@[simp] theorem Hub.withSurface_link : (h.withSurface s).link = h.link := rfl
@[simp] theorem Hub.withSurface_draws : (h.withSurface s).draws = h.draws := rfl

end withSurface

section withMeters

variable (h : Hub) (m : List Meter)

@[simp] theorem Hub.withMeters_resetN : (h.withMeters m).resetN = h.resetN := rfl
@[simp] theorem Hub.withMeters_clock : (h.withMeters m).clock = h.clock := rfl
@[simp] theorem Hub.withMeters_outputs : (h.withMeters m).outputs = h.outputs := rfl
@[simp] theorem Hub.withMeters_tallies : (h.withMeters m).tallies = h.tallies := rfl
@[simp] theorem Hub.withMeters_engine : (h.withMeters m).engine = h.engine := rfl
@[simp] theorem Hub.withMeters_cues : (h.withMeters m).cues = h.cues := rfl
@[simp] theorem Hub.withMeters_ports : (h.withMeters m).ports = h.ports := rfl
@[simp] theorem Hub.withMeters_bus : (h.withMeters m).bus = h.bus := rfl
@[simp] theorem Hub.withMeters_surface : (h.withMeters m).surface = h.surface := rfl
@[simp] theorem Hub.withMeters_meters : (h.withMeters m).meters = m := rfl
@[simp] theorem Hub.withMeters_link : (h.withMeters m).link = h.link := rfl
@[simp] theorem Hub.withMeters_draws : (h.withMeters m).draws = h.draws := rfl

end withMeters

section withLink

variable (h : Hub) (l : Link)

@[simp] theorem Hub.withLink_resetN : (h.withLink l).resetN = h.resetN := rfl
@[simp] theorem Hub.withLink_clock : (h.withLink l).clock = h.clock := rfl
@[simp] theorem Hub.withLink_outputs : (h.withLink l).outputs = h.outputs := rfl
@[simp] theorem Hub.withLink_tallies : (h.withLink l).tallies = h.tallies := rfl
@[simp] theorem Hub.withLink_engine : (h.withLink l).engine = h.engine := rfl
@[simp] theorem Hub.withLink_cues : (h.withLink l).cues = h.cues := rfl
@[simp] theorem Hub.withLink_ports : (h.withLink l).ports = h.ports := rfl
@[simp] theorem Hub.withLink_bus : (h.withLink l).bus = h.bus := rfl
@[simp] theorem Hub.withLink_surface : (h.withLink l).surface = h.surface := rfl
@[simp] theorem Hub.withLink_meters : (h.withLink l).meters = h.meters := rfl
@[simp] theorem Hub.withLink_link : (h.withLink l).link = l := rfl
@[simp] theorem Hub.withLink_draws : (h.withLink l).draws = h.draws := rfl

end withLink

section drawn

variable (h : Hub)

@[simp] theorem Hub.drawn_resetN : h.drawn.resetN = h.resetN := rfl
@[simp] theorem Hub.drawn_clock : h.drawn.clock = h.clock := rfl
@[simp] theorem Hub.drawn_outputs : h.drawn.outputs = h.outputs := rfl
@[simp] theorem Hub.drawn_tallies : h.drawn.tallies = h.tallies := rfl
@[simp] theorem Hub.drawn_engine : h.drawn.engine = h.engine := rfl
@[simp] theorem Hub.drawn_cues : h.drawn.cues = h.cues := rfl
@[simp] theorem Hub.drawn_ports : h.drawn.ports = h.ports := rfl
@[simp] theorem Hub.drawn_bus : h.drawn.bus = h.bus := rfl
@[simp] theorem Hub.drawn_surface : h.drawn.surface = h.surface := rfl
@[simp] theorem Hub.drawn_meters : h.drawn.meters = h.meters := rfl
@[simp] theorem Hub.drawn_link : h.drawn.link = h.link := rfl
@[simp] theorem Hub.drawn_draws : h.drawn.draws = h.draws + 1 := rfl

end drawn

section putStream

variable (h : Hub) (i : Nat) (st : Stream)

@[simp] theorem Hub.putStream_resetN : (h.putStream i st).resetN = h.resetN := rfl
@[simp] theorem Hub.putStream_clock : (h.putStream i st).clock = h.clock := rfl
@[simp] theorem Hub.putStream_outputs : (h.putStream i st).outputs = h.outputs := rfl
@[simp] theorem Hub.putStream_tallies : (h.putStream i st).tallies = h.tallies := rfl
@[simp] theorem Hub.putStream_engine : (h.putStream i st).engine = { h.engine with streams := h.engine.streams.set i (some st) } := rfl
@[simp] theorem Hub.putStream_cues : (h.putStream i st).cues = h.cues := rfl
@[simp] theorem Hub.putStream_ports : (h.putStream i st).ports = h.ports := rfl
@[simp] theorem Hub.putStream_bus : (h.putStream i st).bus = h.bus := rfl
@[simp] theorem Hub.putStream_surface : (h.putStream i st).surface = h.surface := rfl
@[simp] theorem Hub.putStream_meters : (h.putStream i st).meters = h.meters := rfl
@[simp] theorem Hub.putStream_link : (h.putStream i st).link = h.link := rfl
@[simp] theorem Hub.putStream_draws : (h.putStream i st).draws = h.draws := rfl

end putStream

section putPort

variable (h : Hub) (i : Nat) (p : Port)

@[simp] theorem Hub.putPort_resetN : (h.putPort i p).resetN = h.resetN := rfl
@[simp] theorem Hub.putPort_clock : (h.putPort i p).clock = h.clock := rfl
@[simp] theorem Hub.putPort_outputs : (h.putPort i p).outputs = h.outputs := rfl
@[simp] theorem Hub.putPort_tallies : (h.putPort i p).tallies = h.tallies := rfl
@[simp] theorem Hub.putPort_engine : (h.putPort i p).engine = h.engine := rfl
@[simp] theorem Hub.putPort_cues : (h.putPort i p).cues = h.cues := rfl
@[simp] theorem Hub.putPort_ports : (h.putPort i p).ports = h.ports.set i p := rfl
@[simp] theorem Hub.putPort_bus : (h.putPort i p).bus = h.bus := rfl
@[simp] theorem Hub.putPort_surface : (h.putPort i p).surface = h.surface := rfl
@[simp] theorem Hub.putPort_meters : (h.putPort i p).meters = h.meters := rfl
@[simp] theorem Hub.putPort_link : (h.putPort i p).link = h.link := rfl
@[simp] theorem Hub.putPort_draws : (h.putPort i p).draws = h.draws := rfl

end putPort

section putNode

variable (h : Hub) (i : Nat) (n : Node)

@[simp] theorem Hub.putNode_resetN : (h.putNode i n).resetN = h.resetN := rfl
@[simp] theorem Hub.putNode_clock : (h.putNode i n).clock = h.clock := rfl
@[simp] theorem Hub.putNode_outputs : (h.putNode i n).outputs = h.outputs := rfl
@[simp] theorem Hub.putNode_tallies : (h.putNode i n).tallies = h.tallies := rfl
@[simp] theorem Hub.putNode_engine : (h.putNode i n).engine = h.engine := rfl
@[simp] theorem Hub.putNode_cues : (h.putNode i n).cues = h.cues := rfl
@[simp] theorem Hub.putNode_ports : (h.putNode i n).ports = h.ports := rfl
@[simp] theorem Hub.putNode_bus : (h.putNode i n).bus = h.bus := rfl
@[simp] theorem Hub.putNode_surface : (h.putNode i n).surface = { h.surface with nodes := h.surface.nodes.set (i - 1) n } := rfl
@[simp] theorem Hub.putNode_meters : (h.putNode i n).meters = h.meters := rfl
@[simp] theorem Hub.putNode_link : (h.putNode i n).link = h.link := rfl
@[simp] theorem Hub.putNode_draws : (h.putNode i n).draws = h.draws := rfl

end putNode

section putMeter

variable (h : Hub) (i : Nat) (m : Meter)

@[simp] theorem Hub.putMeter_resetN : (h.putMeter i m).resetN = h.resetN := rfl
@[simp] theorem Hub.putMeter_clock : (h.putMeter i m).clock = h.clock := rfl
@[simp] theorem Hub.putMeter_outputs : (h.putMeter i m).outputs = h.outputs := rfl
@[simp] theorem Hub.putMeter_tallies : (h.putMeter i m).tallies = h.tallies := rfl
@[simp] theorem Hub.putMeter_engine : (h.putMeter i m).engine = h.engine := rfl
@[simp] theorem Hub.putMeter_cues : (h.putMeter i m).cues = h.cues := rfl
@[simp] theorem Hub.putMeter_ports : (h.putMeter i m).ports = h.ports := rfl
@[simp] theorem Hub.putMeter_bus : (h.putMeter i m).bus = h.bus := rfl
@[simp] theorem Hub.putMeter_surface : (h.putMeter i m).surface = h.surface := rfl
@[simp] theorem Hub.putMeter_meters : (h.putMeter i m).meters = h.meters.set i m := rfl
@[simp] theorem Hub.putMeter_link : (h.putMeter i m).link = h.link := rfl
@[simp] theorem Hub.putMeter_draws : (h.putMeter i m).draws = h.draws := rfl

end putMeter

section putTally

variable (h : Hub) (i : Nat) (t : Tally)

@[simp] theorem Hub.putTally_resetN : (h.putTally i t).resetN = h.resetN := rfl
@[simp] theorem Hub.putTally_clock : (h.putTally i t).clock = h.clock := rfl
@[simp] theorem Hub.putTally_outputs : (h.putTally i t).outputs = h.outputs := rfl
@[simp] theorem Hub.putTally_tallies : (h.putTally i t).tallies = h.tallies.set i t := rfl
@[simp] theorem Hub.putTally_engine : (h.putTally i t).engine = h.engine := rfl
@[simp] theorem Hub.putTally_cues : (h.putTally i t).cues = h.cues := rfl
@[simp] theorem Hub.putTally_ports : (h.putTally i t).ports = h.ports := rfl
@[simp] theorem Hub.putTally_bus : (h.putTally i t).bus = h.bus := rfl
@[simp] theorem Hub.putTally_surface : (h.putTally i t).surface = h.surface := rfl
@[simp] theorem Hub.putTally_meters : (h.putTally i t).meters = h.meters := rfl
@[simp] theorem Hub.putTally_link : (h.putTally i t).link = h.link := rfl
@[simp] theorem Hub.putTally_draws : (h.putTally i t).draws = h.draws := rfl

end putTally

section putOut

variable (h : Hub) (i : Nat) (o : ClockOut)

@[simp] theorem Hub.putOut_resetN : (h.putOut i o).resetN = h.resetN := rfl
@[simp] theorem Hub.putOut_clock : (h.putOut i o).clock = h.clock := rfl
@[simp] theorem Hub.putOut_outputs : (h.putOut i o).outputs = { h.outputs with outs := h.outputs.outs.set i o } := rfl
@[simp] theorem Hub.putOut_tallies : (h.putOut i o).tallies = h.tallies := rfl
@[simp] theorem Hub.putOut_engine : (h.putOut i o).engine = h.engine := rfl
@[simp] theorem Hub.putOut_cues : (h.putOut i o).cues = h.cues := rfl
@[simp] theorem Hub.putOut_ports : (h.putOut i o).ports = h.ports := rfl
@[simp] theorem Hub.putOut_bus : (h.putOut i o).bus = h.bus := rfl
@[simp] theorem Hub.putOut_surface : (h.putOut i o).surface = h.surface := rfl
@[simp] theorem Hub.putOut_meters : (h.putOut i o).meters = h.meters := rfl
@[simp] theorem Hub.putOut_link : (h.putOut i o).link = h.link := rfl
@[simp] theorem Hub.putOut_draws : (h.putOut i o).draws = h.draws := rfl

end putOut

section postAt

variable (h : Hub) (k : Nat) (b : NoticeBody)

@[simp] theorem Hub.postAt_resetN : (h.postAt k b).resetN = h.resetN := rfl
@[simp] theorem Hub.postAt_clock : (h.postAt k b).clock = h.clock := rfl
@[simp] theorem Hub.postAt_outputs : (h.postAt k b).outputs = h.outputs := rfl
@[simp] theorem Hub.postAt_tallies : (h.postAt k b).tallies = h.tallies := rfl
@[simp] theorem Hub.postAt_engine : (h.postAt k b).engine = h.engine := rfl
@[simp] theorem Hub.postAt_cues : (h.postAt k b).cues = h.cues := rfl
@[simp] theorem Hub.postAt_ports : (h.postAt k b).ports = h.ports := rfl
@[simp] theorem Hub.postAt_bus : (h.postAt k b).bus = h.bus := rfl
@[simp] theorem Hub.postAt_surface : (h.postAt k b).surface = h.surface := rfl
@[simp] theorem Hub.postAt_meters : (h.postAt k b).meters = h.meters := rfl
@[simp] theorem Hub.postAt_link : (h.postAt k b).link = h.link.post k b := rfl
@[simp] theorem Hub.postAt_draws : (h.postAt k b).draws = h.draws := rfl
@[simp] theorem Hub.post_resetN : (h.post b).resetN = h.resetN := rfl
@[simp] theorem Hub.post_clock : (h.post b).clock = h.clock := rfl
@[simp] theorem Hub.post_outputs : (h.post b).outputs = h.outputs := rfl
@[simp] theorem Hub.post_tallies : (h.post b).tallies = h.tallies := rfl
@[simp] theorem Hub.post_engine : (h.post b).engine = h.engine := rfl
@[simp] theorem Hub.post_cues : (h.post b).cues = h.cues := rfl
@[simp] theorem Hub.post_ports : (h.post b).ports = h.ports := rfl
@[simp] theorem Hub.post_bus : (h.post b).bus = h.bus := rfl
@[simp] theorem Hub.post_surface : (h.post b).surface = h.surface := rfl
@[simp] theorem Hub.post_meters : (h.post b).meters = h.meters := rfl
@[simp] theorem Hub.post_link : (h.post b).link = h.link.post h.clock.n b := rfl
@[simp] theorem Hub.post_draws : (h.post b).draws = h.draws := rfl

end postAt

section answer

variable (h : Hub) (k : Nat) (r : Reply)

@[simp] theorem Hub.answer_resetN : (h.answer k r).resetN = h.resetN := rfl
@[simp] theorem Hub.answer_clock : (h.answer k r).clock = h.clock := rfl
@[simp] theorem Hub.answer_outputs : (h.answer k r).outputs = h.outputs := rfl
@[simp] theorem Hub.answer_tallies : (h.answer k r).tallies = h.tallies := rfl
@[simp] theorem Hub.answer_engine : (h.answer k r).engine = h.engine := rfl
@[simp] theorem Hub.answer_cues : (h.answer k r).cues = h.cues := rfl
@[simp] theorem Hub.answer_ports : (h.answer k r).ports = h.ports := rfl
@[simp] theorem Hub.answer_bus : (h.answer k r).bus = h.bus := rfl
@[simp] theorem Hub.answer_surface : (h.answer k r).surface = h.surface := rfl
@[simp] theorem Hub.answer_meters : (h.answer k r).meters = h.meters := rfl
@[simp] theorem Hub.answer_link : (h.answer k r).link = h.link.answer k r := rfl
@[simp] theorem Hub.answer_draws : (h.answer k r).draws = h.draws := rfl

end answer

/-! ### Whole updates -/

@[simp] theorem Hub.withLink_withLink (h : Hub) (a b : Link) : (h.withLink a).withLink b = h.withLink b := rfl
@[simp] theorem Hub.withLink_self (h : Hub) : h.withLink h.link = h := rfl

@[simp] theorem State.onHub_eq (s : State) (f : Hub → Hub) : s.onHub f = .next { s with hub := f s.hub } := rfl

theorem State.onLive_eq (s : State) (f : Hub → Hub) :
    s.onLive f = .next { s with hub := if s.hub.resetN then f s.hub else s.hub } := rfl

@[simp] theorem State.onLive_of_resetN {s : State} (h : s.hub.resetN = true) (f : Hub → Hub) :
    s.onLive f = .next { s with hub := f s.hub } := by simp [State.onLive_eq, h]

/-! ### Looking up a record after it was put -/

theorem Hub.port_putPort {h : Hub} {i : Nat} {p q : Port} (hp : h.port i = some q) : (h.putPort i p).port i = some p := by
  simp only [Hub.port, Hub.putPort_ports] at *
  simp [List.getElem?_eq_some_iff.mp hp |>.1]

theorem Hub.meter_putMeter {h : Hub} {i : Nat} {m q : Meter} (hm : h.meter i = some q) : (h.putMeter i m).meter i = some m := by
  simp only [Hub.meter, Hub.putMeter_meters] at *
  simp [List.getElem?_eq_some_iff.mp hm |>.1]

theorem Hub.tally_putTally {h : Hub} {i : Nat} {t q : Tally} (ht : h.tally i = some q) : (h.putTally i t).tally i = some t := by
  simp only [Hub.tally, Hub.putTally_tallies] at *
  simp [List.getElem?_eq_some_iff.mp ht |>.1]

theorem Hub.out_putOut {h : Hub} {i : Nat} {o q : ClockOut} (ho : h.out i = some q) : (h.putOut i o).out i = some o := by
  simp only [Hub.out, Hub.putOut_outputs] at *
  simp [List.getElem?_eq_some_iff.mp ho |>.1]

theorem Hub.node_putNode {h : Hub} {a : Nat} {n q : Node} (hn : h.node a = some q) : (h.putNode a n).node a = some n := by
  unfold Hub.node at *
  split at hn
  · cases hn
  · simp_all [List.getElem?_eq_some_iff.mp hn |>.1]

theorem Hub.node_putNode_ne {h : Hub} {a b : Nat} {n : Node} (ha : a ≠ 0) (hab : a ≠ b) :
    (h.putNode a n).node b = h.node b := by
  unfold Hub.node
  split
  · rfl
  · simp only [Hub.putNode_surface]; rw [List.getElem?_set_ne (by omega)]

theorem Hub.stream_lt {h : Hub} {i : Nat} {st : Stream} (hs : h.stream i = some st) : i < h.engine.streams.length := by
  unfold Hub.stream at hs
  by_cases hi : i < h.engine.streams.length
  · exact hi
  · simp [List.getElem?_eq_none (Nat.le_of_not_lt hi)] at hs

theorem Hub.stream_putStream {h : Hub} {i : Nat} {st q : Stream} (hs : h.stream i = some q) :
    (h.putStream i st).stream i = some st := by
  have := Hub.stream_lt hs
  simp [Hub.stream, this]

theorem Hub.stream_putStream_ne {h : Hub} {i j : Nat} {st : Stream} (hij : i ≠ j) :
    (h.putStream i st).stream j = h.stream j := by
  simp [Hub.stream, List.getElem?_set_ne hij]

end Sys2Proof.Machine
end

