-- ==== Sys2Proof/Laws/Frames.lean ====
section
/-! SUPPORT. What each shared operation leaves as it was, said once: `Hub.Within` for every function of the model that changes the hub,
in the form "if `g` differs from `h` within `bs`, so does the result of the operation on `g`". -/

namespace Sys2Proof.Machine

namespace Hub.Within

variable {bs : List Block} {h g : Hub}

theorem rfl' (bs : List Block) (h : Hub) : Hub.Within bs h h :=
  ⟨fun _ => rfl, fun _ => rfl, fun _ => rfl, fun _ => rfl, fun _ => rfl, fun _ => rfl, fun _ => rfl, fun _ => rfl, fun _ => rfl,
    fun _ => rfl, fun _ => rfl, fun _ => .refl _, fun _ => rfl⟩

theorem withClock (hc : Block.clock ∈ bs) (w : Hub.Within bs h g) (c : MediaClock) : Hub.Within bs h (g.withClock c) :=
  { w with clock := fun n => absurd hc n }

theorem withOutputs (hc : Block.outputs ∈ bs) (w : Hub.Within bs h g) (o : OutputUnit) : Hub.Within bs h (g.withOutputs o) :=
  { w with outputs := fun n => absurd hc n }

theorem withTallies (hc : Block.tallies ∈ bs) (w : Hub.Within bs h g) (t : List Tally) : Hub.Within bs h (g.withTallies t) :=
  { w with tallies := fun n => absurd hc n }

theorem withEngine (hc : Block.engine ∈ bs) (w : Hub.Within bs h g) (e : StreamEngine) : Hub.Within bs h (g.withEngine e) :=
  { w with engine := fun n => absurd hc n }

theorem withCues (hc : Block.cues ∈ bs) (w : Hub.Within bs h g) (c : List CueEntry) : Hub.Within bs h (g.withCues c) :=
  { w with cues := fun n => absurd hc n }

theorem withPorts (hc : Block.ports ∈ bs) (w : Hub.Within bs h g) (p : List Port) : Hub.Within bs h (g.withPorts p) :=
  { w with ports := fun n => absurd hc n }

theorem withBus (hc : Block.bus ∈ bs) (w : Hub.Within bs h g) (b : ControlBus) : Hub.Within bs h (g.withBus b) :=
  { w with bus := fun n => absurd hc n }

theorem withSurface (hc : Block.surface ∈ bs) (w : Hub.Within bs h g) (s : Surface) : Hub.Within bs h (g.withSurface s) :=
  { w with surface := fun n => absurd hc n }

theorem withMeters (hc : Block.meters ∈ bs) (w : Hub.Within bs h g) (m : List Meter) : Hub.Within bs h (g.withMeters m) :=
  { w with meters := fun n => absurd hc n }

theorem withLink (hl : Block.link ∈ bs) (hc : Block.linkState ∈ bs) (w : Hub.Within bs h g) (l : Link) :
    Hub.Within bs h (g.withLink l) :=
  { w with link := fun n => absurd hl n, linkState := fun n => absurd hc n }

theorem drawn (hc : Block.draws ∈ bs) (w : Hub.Within bs h g) : Hub.Within bs h g.drawn :=
  { w with draws := fun n => absurd hc n }

theorem postAt (hl : Block.link ∈ bs) (w : Hub.Within bs h g) (k : Nat) (b : NoticeBody) : Hub.Within bs h (g.postAt k b) :=
  { w with link := fun n => absurd hl n, linkState := fun n => (w.linkState n).post k b }

theorem post (hl : Block.link ∈ bs) (w : Hub.Within bs h g) (b : NoticeBody) : Hub.Within bs h (g.post b) := w.postAt hl _ b

theorem answer (hl : Block.link ∈ bs) (w : Hub.Within bs h g) (e : Nat) (r : Reply) : Hub.Within bs h (g.answer e r) :=
  { w with link := fun n => absurd hl n, linkState := fun n => (w.linkState n).answer e r }

theorem putStream (he : Block.engine ∈ bs) (w : Hub.Within bs h g) (i : Nat) (st : Stream) : Hub.Within bs h (g.putStream i st) :=
  w.withEngine he _

theorem putPort (hc : Block.ports ∈ bs) (w : Hub.Within bs h g) (i : Nat) (p : Port) : Hub.Within bs h (g.putPort i p) :=
  w.withPorts hc _

theorem putNode (hc : Block.surface ∈ bs) (w : Hub.Within bs h g) (a : Nat) (n : Node) : Hub.Within bs h (g.putNode a n) :=
  w.withSurface hc _

theorem putMeter (hc : Block.meters ∈ bs) (w : Hub.Within bs h g) (i : Nat) (m : Meter) : Hub.Within bs h (g.putMeter i m) :=
  w.withMeters hc _

theorem putTally (hc : Block.tallies ∈ bs) (w : Hub.Within bs h g) (i : Nat) (t : Tally) : Hub.Within bs h (g.putTally i t) :=
  w.withTallies hc _

theorem putOut (hc : Block.outputs ∈ bs) (w : Hub.Within bs h g) (i : Nat) (o : ClockOut) : Hub.Within bs h (g.putOut i o) :=
  w.withOutputs hc _

/-- Doing something within `bs` again and again stays within `bs`. -/
theorem forEach {f : Hub → Nat → Hub} (hf : ∀ g i, Hub.Within bs h g → Hub.Within bs h (f g i)) :
    ∀ (n lo : Nat) {g : Hub}, Hub.Within bs h g → Hub.Within bs h (Machine.forEach n lo f g)
  | 0, _, _, w => w
  | n + 1, lo, g, w => forEach hf n (lo + 1) (hf g lo w)

theorem foldl {α : Type} {f : Hub → α → Hub} (hf : ∀ g a, Hub.Within bs h g → Hub.Within bs h (f g a)) :
    ∀ (l : List α) {g : Hub}, Hub.Within bs h g → Hub.Within bs h (l.foldl f g)
  | [], _, w => w
  | a :: l, g, w => foldl hf l (hf g a w)

/-! ### Timeline -/

theorem steer (hc : Block.clock ∈ bs) (hd : Block.draws ∈ bs) (w : Hub.Within bs h g) : Hub.Within bs h g.steer :=
  (w.withClock hc _).drawn hd

theorem recordHeld (hc : Block.clock ∈ bs) (w : Hub.Within bs h g) (r : Ratio) : Hub.Within bs h (g.recordHeld r) := w.withClock hc _

theorem postClock (hl : Block.link ∈ bs) (w : Hub.Within bs h g) (r : ClockReason) : Hub.Within bs h (g.postClock r) := w.post hl _

theorem enterAcquiring (hc : Block.clock ∈ bs) (hd : Block.draws ∈ bs) (w : Hub.Within bs h g) (m : Bool) :
    Hub.Within bs h (g.enterAcquiring m) := (w.withClock hc _).steer hc hd

theorem enterHoldover (hc : Block.clock ∈ bs) (w : Hub.Within bs h g) : Hub.Within bs h g.enterHoldover := w.withClock hc _

theorem tryLock (hc : Block.clock ∈ bs) (hl : Block.link ∈ bs) (w : Hub.Within bs h g) : Hub.Within bs h g.tryLock := by
  unfold Hub.tryLock
  repeat' first | assumption | with_reducible apply postClock | with_reducible apply withClock | split

theorem moveLockRun (hc : Block.clock ∈ bs) (w : Hub.Within bs h g) (p : Ratio) : Hub.Within bs h (g.moveLockRun p) := by
  unfold Hub.moveLockRun
  repeat' first | assumption | with_reducible apply withClock | split

theorem steerAtEvent (hc : Block.clock ∈ bs) (hd : Block.draws ∈ bs) (w : Hub.Within bs h g) : Hub.Within bs h g.steerAtEvent := by
  unfold Hub.steerAtEvent
  repeat' first | assumption | with_reducible apply steer | split

theorem measurementEnd (hc : Block.clock ∈ bs) (hd : Block.draws ∈ bs) (hl : Block.link ∈ bs) (w : Hub.Within bs h g) (k : Nat)
    (r : Ratio) : Hub.Within bs h (g.measurementEnd k r) := by
  unfold Hub.measurementEnd
  dsimp only
  repeat' first
    | assumption | with_reducible apply tryLock | with_reducible apply postClock | with_reducible apply enterHoldover
    | with_reducible apply enterAcquiring | with_reducible apply recordHeld | with_reducible apply withClock | split

theorem measureEdge (hc : Block.clock ∈ bs) (hd : Block.draws ∈ bs) (hl : Block.link ∈ bs) (w : Hub.Within bs h g)
    (c : MediaClock) (k : Nat) : Hub.Within bs h (g.measureEdge c k) := by
  unfold Hub.measureEdge
  repeat' first | assumption | with_reducible apply measurementEnd | with_reducible apply withClock | split

theorem wckiEdge (hc : Block.clock ∈ bs) (hd : Block.draws ∈ bs) (hl : Block.link ∈ bs) (w : Hub.Within bs h g) (p : Ratio) (k : Nat) :
    Hub.Within bs h (g.wckiEdge p k) := by
  unfold Hub.wckiEdge
  repeat' first
    | assumption | with_reducible apply measureEdge | with_reducible apply tryLock | with_reducible apply moveLockRun
    | with_reducible apply steerAtEvent | split

theorem linkEvent (hc : Block.clock ∈ bs) (hd : Block.draws ∈ bs) (hl : Block.link ∈ bs) (w : Hub.Within bs h g) (p : Ratio) (k : Nat) :
    Hub.Within bs h (g.linkEvent p k) := by
  unfold Hub.linkEvent
  dsimp only
  repeat' first
    | assumption | with_reducible apply tryLock | with_reducible apply moveLockRun | with_reducible apply recordHeld
    | with_reducible apply postClock | with_reducible apply enterAcquiring | with_reducible apply steerAtEvent
    | with_reducible apply withClock | split

theorem startOfFrame (hc : Block.clock ∈ bs) (hd : Block.draws ∈ bs) (hl : Block.link ∈ bs) (hs : Block.linkState ∈ bs)
    (w : Hub.Within bs h g) (f : BitVec 11) (p : Ratio) : Hub.Within bs h (g.startOfFrame f p) := by
  unfold Hub.startOfFrame
  dsimp only
  repeat' first | assumption | with_reducible apply linkEvent | with_reducible apply withLink | split

theorem referenceTimeout (hc : Block.clock ∈ bs) (hl : Block.link ∈ bs) (w : Hub.Within bs h g) :
    Hub.Within bs h g.referenceTimeout := by
  unfold Hub.referenceTimeout
  dsimp only
  repeat' first
    | assumption | with_reducible apply postClock | with_reducible apply enterHoldover | with_reducible apply withClock | split

theorem acquireTimeout (hc : Block.clock ∈ bs) (hl : Block.link ∈ bs) (w : Hub.Within bs h g) : Hub.Within bs h g.acquireTimeout := by
  unfold Hub.acquireTimeout
  repeat' first | assumption | with_reducible apply postClock | with_reducible apply withClock | split

theorem referenceEvent (hc : Block.clock ∈ bs) (hd : Block.draws ∈ bs) (hl : Block.link ∈ bs) (hs : Block.linkState ∈ bs)
    (w : Hub.Within bs h g) (ev : RefEvent) : Hub.Within bs h (g.referenceEvent ev) := by
  unfold Hub.referenceEvent
  repeat' first | assumption | with_reducible apply wckiEdge | with_reducible apply startOfFrame | split

/-! ### Clock outputs and tallies -/

theorem outputsAtBoundary (ho : Block.outputs ∈ bs) (w : Hub.Within bs h g) (m : Nat) : Hub.Within bs h (g.outputsAtBoundary m) :=
  w.withOutputs ho _

theorem outputStart (ho : Block.outputs ∈ bs) (w : Hub.Within bs h g) (i m : Nat) : Hub.Within bs h (g.outputStart i m) := by
  unfold Hub.outputStart
  dsimp only
  repeat' first | assumption | with_reducible apply withOutputs | split

theorem outputPeriodEnd (ho : Block.outputs ∈ bs) (w : Hub.Within bs h g) (i m : Nat) (a : Bool) :
    Hub.Within bs h (g.outputPeriodEnd i m a) := w.withOutputs ho _

theorem outputsRateChange (ho : Block.outputs ∈ bs) (w : Hub.Within bs h g) (a : Bool) : Hub.Within bs h (g.outputsRateChange a) :=
  w.withOutputs ho _

theorem talliesAtBoundary (ht : Block.tallies ∈ bs) (w : Hub.Within bs h g) (p : Nat) : Hub.Within bs h (g.talliesAtBoundary p) :=
  w.withTallies ht _

theorem stopTallies (ht : Block.tallies ∈ bs) (w : Hub.Within bs h g) : Hub.Within bs h g.stopTallies := w.withTallies ht _

/-! ### Streams -/

theorem postStream (hl : Block.link ∈ bs) (w : Hub.Within bs h g) (i : Nat) (r : StreamReason) : Hub.Within bs h (g.postStream i r) := by
  unfold Hub.postStream
  repeat' first | assumption | with_reducible apply post | split

theorem changeStream (he : Block.engine ∈ bs) (hl : Block.link ∈ bs) (w : Hub.Within bs h g) (i : Nat) (st : Stream)
    (r : StreamReason) : Hub.Within bs h (g.changeStream i st r) := (w.putStream he _ _).postStream hl _ _

theorem chargeStream (he : Block.engine ∈ bs) (hl : Block.link ∈ bs) (w : Hub.Within bs h g) (i : Nat) :
    Hub.Within bs h (g.chargeStream i) := by
  unfold Hub.chargeStream
  repeat' first | assumption | with_reducible apply changeStream | with_reducible apply putStream | split

theorem trigger (he : Block.engine ∈ bs) (hl : Block.link ∈ bs) (w : Hub.Within bs h g) (i t now : Nat) (r : StreamReason) :
    Hub.Within bs h (g.trigger i t now r) := by
  unfold Hub.trigger
  dsimp only
  repeat' first | assumption | with_reducible apply changeStream | split

theorem stopPlay (he : Block.engine ∈ bs) (hl : Block.link ∈ bs) (w : Hub.Within bs h g) (i : Nat) (st : Stream) (e now : Nat) :
    Hub.Within bs h (g.stopPlay i st e now) := by
  unfold Hub.stopPlay
  dsimp only
  repeat' first | assumption | with_reducible apply changeStream | with_reducible apply putStream | split

theorem stopCapture (he : Block.engine ∈ bs) (hl : Block.link ∈ bs) (w : Hub.Within bs h g) (i : Nat) (st : Stream) (e now : Nat) :
    Hub.Within bs h (g.stopCapture i st e now) := by
  unfold Hub.stopCapture
  dsimp only
  repeat' first | assumption | with_reducible apply changeStream | with_reducible apply putStream | split

theorem stopStream (he : Block.engine ∈ bs) (hl : Block.link ∈ bs) (w : Hub.Within bs h g) (i e now : Nat) (c : Bool) :
    Hub.Within bs h (g.stopStream i e now c).1 := by
  unfold Hub.stopStream
  repeat' first
    | assumption | with_reducible apply changeStream | with_reducible apply stopPlay | with_reducible apply stopCapture | split

/-! ### Playback -/

theorem place (he : Block.engine ∈ bs) (w : Hub.Within bs h g) (i : Nat) (st : Stream) (body : List Byte) (p0 lo hi : Nat) :
    Hub.Within bs h (g.place i st body p0 lo hi) := (w.withEngine he _).putStream he _ _

theorem refuseBlock (he : Block.engine ∈ bs) (hl : Block.link ∈ bs) (w : Hub.Within bs h g) (i : Nat) (r : BlockReason) (p0 f : Nat) :
    Hub.Within bs h (g.refuseBlock i r p0 f) := (w.post hl _).chargeStream he hl _

theorem postCuts (hl : Block.link ∈ bs) (w : Hub.Within bs h g) (i p0 f n c : Nat) : Hub.Within bs h (g.postCuts i p0 f n c) := by
  unfold Hub.postCuts
  dsimp only
  repeat' first | assumption | with_reducible apply post | split

theorem checkBlock (he : Block.engine ∈ bs) (hl : Block.link ∈ bs) (w : Hub.Within bs h g) (i : Nat) (st : Stream) (body : List Byte) :
    Hub.Within bs h (g.checkBlock i st body) := by
  unfold Hub.checkBlock
  dsimp only
  repeat' first
    | assumption | with_reducible apply refuseBlock | with_reducible apply place | with_reducible apply postCuts | split

theorem takePlayBlock (he : Block.engine ∈ bs) (hl : Block.link ∈ bs) (w : Hub.Within bs h g) (body : List Byte) :
    Hub.Within bs h (g.takePlayBlock body) := by
  unfold Hub.takePlayBlock
  dsimp only
  repeat' first | assumption | with_reducible apply checkBlock | with_reducible apply post | split

theorem reportMark (he : Block.engine ∈ bs) (hl : Block.link ∈ bs) (w : Hub.Within bs h g) (i p : Nat) :
    Hub.Within bs h (g.reportMark i p) := by
  unfold Hub.reportMark
  repeat' first | assumption | with_reducible apply post | with_reducible apply putStream | split

theorem settleFrame (he : Block.engine ∈ bs) (hl : Block.link ∈ bs) (w : Hub.Within bs h g) (i : Nat) (st : Stream) (p : Nat) :
    Hub.Within bs h (g.settleFrame i st p) := by
  unfold Hub.settleFrame
  dsimp only
  repeat' first
    | assumption | with_reducible apply reportMark | with_reducible apply post | with_reducible apply putStream
    | with_reducible apply withEngine | split

theorem playBoundary (he : Block.engine ∈ bs) (hl : Block.link ∈ bs) (w : Hub.Within bs h g) (p i : Nat) :
    Hub.Within bs h (g.playBoundary p i) := by
  unfold Hub.playBoundary
  repeat' first | assumption | with_reducible apply settleFrame | with_reducible apply changeStream | split

theorem settlePlay (he : Block.engine ∈ bs) (hl : Block.link ∈ bs) (w : Hub.Within bs h g) (p : Nat) :
    Hub.Within bs h (g.settlePlay p) := forEach (fun _ i w => w.playBoundary he hl p i) _ _ (w.withEngine he _)

/-! ### Capture -/

theorem writeFrame (he : Block.engine ∈ bs) (w : Hub.Within bs h g) (i : Nat) (st : Stream) (p : Nat) :
    Hub.Within bs h (g.writeFrame i st p) := (w.withEngine he _).putStream he _ _

theorem captureBoundary (he : Block.engine ∈ bs) (hl : Block.link ∈ bs) (w : Hub.Within bs h g) (p i : Nat) :
    Hub.Within bs h (g.captureBoundary p i) := by
  unfold Hub.captureBoundary
  dsimp only
  repeat' first | assumption | with_reducible apply changeStream | with_reducible apply writeFrame | split

theorem captureWrite (he : Block.engine ∈ bs) (hl : Block.link ∈ bs) (w : Hub.Within bs h g) (p : Nat) :
    Hub.Within bs h (g.captureWrite p) := forEach (fun _ i w => w.captureBoundary he hl p i) _ _ w

theorem takeBlock (he : Block.engine ∈ bs) (hl : Block.link ∈ bs) (w : Hub.Within bs h g) (st : Stream) (o : Offer) :
    Hub.Within bs h (g.takeBlock st o) := by
  unfold Hub.takeBlock
  repeat' first | assumption | with_reducible apply changeStream | with_reducible apply putStream | split

/-! ### Control bus -/

theorem postPort (hl : Block.link ∈ bs) (w : Hub.Within bs h g) (i : Nat) (r : PortReason) (e : Option Nat) (k : Nat) :
    Hub.Within bs h (g.postPort i r e k) := by
  unfold Hub.postPort
  repeat' first | assumption | with_reducible apply post | split

theorem initOutcome (hp : Block.ports ∈ bs) (hl : Block.link ∈ bs) (w : Hub.Within bs h g) (i e : Nat) (r : JobResult) :
    Hub.Within bs h (g.initOutcome i e r) := by
  unfold Hub.initOutcome
  repeat' first | assumption | with_reducible apply postPort | with_reducible apply putPort | split

theorem postFired (hl : Block.link ∈ bs) (w : Hub.Within bs h g) (t d f : Nat) (n : Bool) (r : CueResult) (k : Nat) (la sk : Bool) :
    Hub.Within bs h (g.postFired t d f n r k la sk) := by
  unfold Hub.postFired
  repeat' first | assumption | with_reducible apply post | split

theorem jobOutcome (hp : Block.ports ∈ bs) (hl : Block.link ∈ bs) (w : Hub.Within bs h g) (j : Job) (r : JobResult) :
    Hub.Within bs h (g.jobOutcome j r) := by
  unfold Hub.jobOutcome
  repeat' first
    | assumption | with_reducible apply answer | with_reducible apply postFired | with_reducible apply initOutcome | split

theorem endJob (hb : Block.bus ∈ bs) (hp : Block.ports ∈ bs) (hl : Block.link ∈ bs) (w : Hub.Within bs h g) (r : JobResult) :
    Hub.Within bs h (g.endJob r) := by
  unfold Hub.endJob
  repeat' first | assumption | with_reducible apply jobOutcome | with_reducible apply withBus | split

theorem transactionEnd (hb : Block.bus ∈ bs) (hp : Block.ports ∈ bs) (hl : Block.link ∈ bs) (w : Hub.Within bs h g) (o : TxOutcome) :
    Hub.Within bs h (g.transactionEnd o) := by
  unfold Hub.transactionEnd
  dsimp only
  repeat' first | assumption | with_reducible apply endJob | with_reducible apply withBus | split

theorem markedJobEnd (hb : Block.bus ∈ bs) (hp : Block.ports ∈ bs) (hl : Block.link ∈ bs) (w : Hub.Within bs h g)
    (p : Option BusProgress) : Hub.Within bs h (g.markedJobEnd p) := by
  unfold Hub.markedJobEnd
  repeat' first | assumption | with_reducible apply endJob | with_reducible apply withBus | split

theorem releaseEnd (hb : Block.bus ∈ bs) (w : Hub.Within bs h g) (l : List BusItem) : Hub.Within bs h (g.releaseEnd l) := w.withBus hb _

theorem busReleaseEnd (hb : Block.bus ∈ bs) (w : Hub.Within bs h g) (p : Option BusProgress) : Hub.Within bs h (g.busReleaseEnd p) := by
  unfold Hub.busReleaseEnd
  repeat' first | assumption | with_reducible apply releaseEnd | split

theorem busStuck (hb : Block.bus ∈ bs) (hp : Block.ports ∈ bs) (hl : Block.link ∈ bs) (w : Hub.Within bs h g) (p : Option BusProgress) :
    Hub.Within bs h (g.busStuck p) := by
  unfold Hub.busStuck
  repeat' first
    | assumption | with_reducible apply endJob | with_reducible apply releaseEnd | with_reducible apply withBus | split

theorem busRecoveryEnd (hb : Block.bus ∈ bs) (hp : Block.ports ∈ bs) (hl : Block.link ∈ bs) (w : Hub.Within bs h g) (o : Bool) (k : Nat) :
    Hub.Within bs h (g.busRecoveryEnd o k) := by
  unfold Hub.busRecoveryEnd
  dsimp only
  repeat' first | assumption | with_reducible apply endJob | with_reducible apply withBus | split

/-! ### Ports -/

theorem settleStep (hp : Block.ports ∈ bs) (hl : Block.link ∈ bs) (w : Hub.Within bs h g) (p i : Nat) :
    Hub.Within bs h (g.settleStep p i) := by
  unfold Hub.settleStep
  repeat' first | assumption | with_reducible apply postAt | with_reducible apply putPort | split

theorem portsBegin (hp : Block.ports ∈ bs) (hl : Block.link ∈ bs) (w : Hub.Within bs h g) (p : Nat) (wire : List (List SlotWord)) :
    Hub.Within bs h (g.portsBegin p wire) := by
  refine forEach (fun g i w => ?_) _ _ w
  dsimp only
  repeat' first | assumption | with_reducible apply putPort | with_reducible apply settleStep | split

theorem portsShiftOut (hp : Block.ports ∈ bs) (w : Hub.Within bs h g) : Hub.Within bs h g.portsShiftOut := by
  refine forEach (fun g i w => ?_) _ _ w
  repeat' first | assumption | with_reducible apply putPort | split

theorem startSettling (hp : Block.ports ∈ bs) (hl : Block.link ∈ bs) (w : Hub.Within bs h g) (i : Nat) (pt : Port) :
    Hub.Within bs h (g.startSettling i pt) := (w.putPort hp _ _).postPort hl _ _ _ _

theorem startInit (hb : Block.bus ∈ bs) (hp : Block.ports ∈ bs) (hl : Block.link ∈ bs) (w : Hub.Within bs h g) (i : Nat) (pt : Port)
    (ws : List InitWrite) : Hub.Within bs h (g.startInit i pt ws) := ((w.withBus hb _).putPort hp _ _).postPort hl _ _ _ _

theorem portSettled (hp : Block.ports ∈ bs) (hl : Block.link ∈ bs) (w : Hub.Within bs h g) (i : Nat) :
    Hub.Within bs h (g.portSettled i) := by
  unfold Hub.portSettled
  repeat' first | assumption | with_reducible apply settleStep | split

/-! ### Surface -/

theorem handSetting (hs : Block.surface ∈ bs) (w : Hub.Within bs h g) (a c : Nat) (k : SettingKind) (v : Nat) :
    Hub.Within bs h (g.handSetting a c k v).1 := by
  unfold Hub.handSetting
  repeat' first | assumption | with_reducible apply putNode | split

theorem answerReset (hs : Block.surface ∈ bs) (hl : Block.link ∈ bs) (w : Hub.Within bs h g) (a : Nat) (st : Status) :
    Hub.Within bs h (g.answerReset a st) := by
  unfold Hub.answerReset
  repeat' first | assumption | with_reducible apply answer | with_reducible apply putNode | split

theorem leaveOnline (hs : Block.surface ∈ bs) (hm : Block.meters ∈ bs) (hl : Block.link ∈ bs) (w : Hub.Within bs h g) (a : Nat) (st : NodeState) :
    Hub.Within bs h (g.leaveOnline a st) := by
  unfold Hub.leaveOnline
  dsimp only
  repeat' first
    | assumption | with_reducible apply answerReset | with_reducible apply putNode | with_reducible apply withMeters | split

theorem roundStart (hs : Block.surface ∈ bs) (w : Hub.Within bs h g) : Hub.Within bs h g.roundStart := by
  unfold Hub.roundStart
  repeat' first | assumption | with_reducible apply withSurface | split

theorem beginExchange (hs : Block.surface ∈ bs) (w : Hub.Within bs h g) (a : Nat) (k : ExchangeKind) (f : Bool) (p : List Byte) :
    Hub.Within bs h (g.beginExchange a k f p) := w.withSurface hs _

theorem sendPoll (hs : Block.surface ∈ bs) (w : Hub.Within bs h g) (a : Nat) : Hub.Within bs h (g.sendPoll a) :=
  w.beginExchange hs _ _ _ _

theorem visitNode (hs : Block.surface ∈ bs) (w : Hub.Within bs h g) (a : Nat) (n : Node) : Hub.Within bs h (g.visitNode a n) := by
  unfold Hub.visitNode Hub.sendReset Hub.sendWrite
  repeat' first
    | assumption | with_reducible apply sendPoll | with_reducible apply beginExchange | with_reducible apply putNode | split

theorem visitStart (hs : Block.surface ∈ bs) (w : Hub.Within bs h g) : Hub.Within bs h g.visitStart := by
  unfold Hub.visitStart
  repeat' first | assumption | with_reducible apply visitNode | with_reducible apply withSurface | split

theorem reportReceived (hs : Block.surface ∈ bs) (w : Hub.Within bs h g) : Hub.Within bs h g.reportReceived := by
  unfold Hub.reportReceived
  repeat' first | assumption | with_reducible apply withSurface | split

theorem disableNode (hs : Block.surface ∈ bs) (hm : Block.meters ∈ bs) (hl : Block.link ∈ bs) (w : Hub.Within bs h g) (a : Nat) (n : Node) :
    Hub.Within bs h (g.disableNode a n) := by
  unfold Hub.disableNode
  repeat' first | assumption | with_reducible apply leaveOnline | with_reducible apply withSurface | split

/-! ### Meters -/

theorem meterSample (hm : Block.meters ∈ bs) (hl : Block.link ∈ bs) (w : Hub.Within bs h g) (p i : Nat) :
    Hub.Within bs h (g.meterSample p i) := by
  unfold Hub.meterSample
  dsimp only
  repeat' first | assumption | with_reducible apply post | with_reducible apply putMeter | split

theorem metersSample (hm : Block.meters ∈ bs) (hl : Block.link ∈ bs) (w : Hub.Within bs h g) (p : Nat) :
    Hub.Within bs h (g.metersSample p) := forEach (fun _ i w => w.meterSample hm hl p i) _ _ w

theorem meterDisplay (hm : Block.meters ∈ bs) (hs : Block.surface ∈ bs) (w : Hub.Within bs h g) (i : Nat) (m : Meter) :
    Hub.Within bs h (g.meterDisplay i m) := by
  unfold Hub.meterDisplay
  dsimp only
  repeat' first | assumption | with_reducible apply putMeter | with_reducible apply handSetting | split

theorem levelWatch (he : Block.engine ∈ bs) (hl : Block.link ∈ bs) (w : Hub.Within bs h g) (i l t now : Nat) :
    Hub.Within bs h (g.levelWatch i l t now) := by
  refine forEach (fun g i w => ?_) _ _ w
  repeat' first | assumption | with_reducible apply trigger | split

theorem meterPeriodEnd (hm : Block.meters ∈ bs) (hs : Block.surface ∈ bs) (he : Block.engine ∈ bs) (hl : Block.link ∈ bs)
    (w : Hub.Within bs h g) (p f i : Nat) : Hub.Within bs h (g.meterPeriodEnd p f i) := by
  unfold Hub.meterPeriodEnd
  split
  · exact w
  · split
    · exact w
    · exact ((w.putMeter hm _ _).meterDisplay hm hs _ _).levelWatch he hl _ _ _ _

theorem metersPeriodEnd (hm : Block.meters ∈ bs) (hs : Block.surface ∈ bs) (he : Block.engine ∈ bs) (hl : Block.link ∈ bs)
    (w : Hub.Within bs h g) (p : Nat) : Hub.Within bs h (g.metersPeriodEnd p) := by
  unfold Hub.metersPeriodEnd
  dsimp only
  split
  · exact forEach (fun _ i w => w.meterPeriodEnd hm hs he hl p _ i) _ _ w
  · exact w

theorem clearClips (hm : Block.meters ∈ bs) (w : Hub.Within bs h g) : Hub.Within bs h g.clearClips := w.withMeters hm _

theorem metersRateChange (hm : Block.meters ∈ bs) (w : Hub.Within bs h g) : Hub.Within bs h g.metersRateChange := w.withMeters hm _

/-! ### Cues -/

theorem actCue (hb : ∀ x ∈ cueBlocks, x ∈ bs) (w : Hub.Within bs h g) (e : CueEntry) (pos fire : Nat) (late : Bool) :
    Hub.Within bs h (g.actCue e pos fire late).1 := by
  have he : Block.engine ∈ bs := hb _ (by decide)
  have hbus : Block.bus ∈ bs := hb _ (by decide)
  have hs : Block.surface ∈ bs := hb _ (by decide)
  have ho : Block.outputs ∈ bs := hb _ (by decide)
  have ht : Block.tallies ∈ bs := hb _ (by decide)
  have hm : Block.meters ∈ bs := hb _ (by decide)
  have hl : Block.link ∈ bs := hb _ (by decide)
  unfold Hub.actCue
  split
  · unfold Hub.cueTrigger
    repeat' first | assumption | with_reducible apply trigger | split
  · rename_i i _
    unfold Hub.cueStop
    have ws := w.stopStream he hl i pos fire false
    split
    · exact w
    · split <;> simp_all
  · unfold Hub.cueMute
    repeat' first | assumption | with_reducible apply putStream | split
  · unfold Hub.cueConverter
    repeat' first | assumption | with_reducible apply withBus | split
  · rename_i n c k v _
    unfold Hub.cueSurface
    have ws := w.handSetting hs n c k v
    split <;> simp_all
  · unfold Hub.cueOutput
    repeat' first | assumption | with_reducible apply putOut | split
  · unfold Hub.cueTallyRun
    repeat' first | assumption | with_reducible apply putTally | split
  · unfold Hub.cueTallyStop
    repeat' first | assumption | with_reducible apply putTally | split
  · exact w.clearClips hm

theorem fireCue (hb : ∀ x ∈ cueBlocks, x ∈ bs) (w : Hub.Within bs h g) (e : CueEntry) (pos fire : Nat) (late : Bool) :
    Hub.Within bs h (g.fireCue e pos fire late) := by
  have hl : Block.link ∈ bs := hb _ (by decide)
  have hc : Block.cues ∈ bs := hb _ (by decide)
  have wa := w.actCue hb e pos fire late
  unfold Hub.fireCue
  generalize g.actCue e pos fire late = r at wa
  obtain ⟨g1, a⟩ := r
  cases a <;> dsimp only <;> split <;>
    repeat' first | assumption | with_reducible apply withCues | with_reducible apply postFired

theorem fireHeld (hb : ∀ x ∈ cueBlocks, x ∈ bs) (w : Hub.Within bs h g) (e : CueEntry) (pos fire : Nat) :
    Hub.Within bs h (g.fireHeld e pos fire) := (w.withCues (hb _ (by decide)) _).fireCue hb e pos fire false

theorem fireDue (hb : ∀ x ∈ cueBlocks, x ∈ bs) (w : Hub.Within bs h g) (p : Nat) : Hub.Within bs h (g.fireDue p) :=
  foldl (fun _ e w => w.fireHeld hb e p p) _ w

theorem fireTag (hb : ∀ x ∈ cueBlocks, x ∈ bs) (w : Hub.Within bs h g) (t : Nat) : Hub.Within bs h (g.fireTag t) := by
  unfold Hub.fireTag
  split
  · exact w
  · exact w.fireHeld hb _ _ _

theorem flushCues (hc : Block.cues ∈ bs) (hl : Block.link ∈ bs) (w : Hub.Within bs h g) (c : FlushCause) :
    Hub.Within bs h (g.flushCues c) := (w.withCues hc _).post hl _

/-! ### Events and exchanges -/

theorem actBinding (hb : ∀ x ∈ cueBlocks, x ∈ bs) (w : Hub.Within bs h g) (a : BindingAction) (stamp : Nat) :
    Hub.Within bs h (g.actBinding a stamp) := by
  have he : Block.engine ∈ bs := hb _ (by decide)
  have hm : Block.meters ∈ bs := hb _ (by decide)
  have hl : Block.link ∈ bs := hb _ (by decide)
  unfold Hub.actBinding Hub.toggleMute
  repeat' first
    | assumption | with_reducible apply trigger | with_reducible apply stopStream | with_reducible apply putStream
    | with_reducible apply clearClips | with_reducible apply fireTag | split

theorem fireBindings (hb : ∀ x ∈ cueBlocks, x ∈ bs) (w : Hub.Within bs h g) (node stamp : Nat) (ev : SurfaceEvent) :
    Hub.Within bs h (g.fireBindings node stamp ev).1 := by
  have key : ∀ (l : List (Option Binding)) (r : Hub × Bool), Hub.Within bs h r.1 →
      Hub.Within bs h (l.foldl (fireBinding node stamp ev) r).1 := by
    intro l
    induction l with
    | nil => intro r hr; exact hr
    | cons b l ih =>
      intro r hr
      refine ih _ ?_
      unfold fireBinding
      repeat' first | assumption | with_reducible apply actBinding | split
  unfold Hub.fireBindings
  split
  · exact key _ _ w
  · exact w

theorem recordEvent (hs : Block.surface ∈ bs) (w : Hub.Within bs h g) (a : Nat) (ev : SurfaceEvent) :
    Hub.Within bs h (g.recordEvent a ev) := by
  unfold Hub.recordEvent
  repeat' first | assumption | with_reducible apply putNode | split

theorem handleEvent (hb : ∀ x ∈ cueBlocks, x ∈ bs) (w : Hub.Within bs h g) (a stamp : Nat) (ev : SurfaceEvent) :
    Hub.Within bs h (g.handleEvent a stamp ev) := by
  have hl : Block.link ∈ bs := hb _ (by decide)
  have wf := (w.recordEvent (hb _ (by decide)) a ev).fireBindings hb a stamp ev
  unfold Hub.handleEvent
  dsimp only
  generalize (g.recordEvent a ev).fireBindings a stamp ev = r at wf
  obtain ⟨g1, b⟩ := r
  dsimp only at wf ⊢
  unfold Hub.forwardEvent
  repeat' first | assumption | with_reducible apply post | split

theorem handleReport (hb : ∀ x ∈ cueBlocks, x ∈ bs) (w : Hub.Within bs h g) (a stamp : Nat) (payload : List Byte) :
    Hub.Within bs h (g.handleReport a stamp payload) := foldl (fun _ ev w => w.handleEvent hb a stamp ev) _ w

theorem editNode (hs : Block.surface ∈ bs) (w : Hub.Within bs h g) (a : Nat) (f : Node → Node) : Hub.Within bs h (g.editNode a f) := by
  unfold Hub.editNode
  repeat' first | assumption | with_reducible apply putNode | split

theorem nodeOffline (hs : Block.surface ∈ bs) (hm : Block.meters ∈ bs) (hl : Block.link ∈ bs) (w : Hub.Within bs h g) (a : Nat) (r : NodeReason) :
    Hub.Within bs h (g.nodeOffline a r) := ((w.leaveOnline hs hm hl _ _).editNode hs _ _).post hl _

theorem nodeHalted (hs : Block.surface ∈ bs) (hm : Block.meters ∈ bs) (hl : Block.link ∈ bs) (w : Hub.Within bs h g) (a : Nat) :
    Hub.Within bs h (g.nodeHalted a) := (w.leaveOnline hs hm hl _ _).post hl _

theorem exchangeError (hs : Block.surface ∈ bs) (hm : Block.meters ∈ bs) (hl : Block.link ∈ bs) (w : Hub.Within bs h g) (a : Nat) :
    Hub.Within bs h (g.exchangeError a) := by
  unfold Hub.exchangeError
  dsimp only
  repeat' first | assumption | with_reducible apply nodeOffline | with_reducible apply putNode | split

theorem commonEnd (hs : Block.surface ∈ bs) (hm : Block.meters ∈ bs) (hl : Block.link ∈ bs) (w : Hub.Within bs h g) (a : Nat) (o : LineOutcome)
    {f : List Byte → Hub} (hf : ∀ p, Hub.Within bs h (f p)) : Hub.Within bs h (g.commonEnd a o f) := by
  unfold Hub.commonEnd Hub.reloadAllowance
  repeat' first
    | assumption | exact hf _ | with_reducible apply nodeHalted | with_reducible apply nodeOffline
    | with_reducible apply exchangeError | with_reducible apply editNode | split

theorem thenPoll (hs : Block.surface ∈ bs) (w : Hub.Within bs h g) (a : Nat) : Hub.Within bs h (g.thenPoll a) := by
  unfold Hub.thenPoll
  repeat' first | assumption | with_reducible apply sendPoll | split

theorem resetEnd (hs : Block.surface ∈ bs) (hm : Block.meters ∈ bs) (hl : Block.link ∈ bs) (w : Hub.Within bs h g) (x : Exchange) (o : LineOutcome) :
    Hub.Within bs h (g.resetEnd x o) := by
  have wc := w.commonEnd hs hm hl x.node o (fun _ => w.editNode hs x.node (fun n => n.resetDone x.forCommand))
  unfold Hub.resetEnd
  dsimp only
  repeat' first | assumption | with_reducible apply thenPoll | with_reducible apply answerReset | split

theorem writeEnd (hs : Block.surface ∈ bs) (hm : Block.meters ∈ bs) (hl : Block.link ∈ bs) (w : Hub.Within bs h g) (x : Exchange) (o : LineOutcome) :
    Hub.Within bs h (g.writeEnd x o) := by
  have wc := w.commonEnd hs hm hl x.node o (fun _ => w.editNode hs x.node Node.writeDone)
  unfold Hub.writeEnd
  dsimp only
  repeat' first | assumption | with_reducible apply thenPoll | with_reducible apply editNode

theorem reportArrived (hb : ∀ x ∈ cueBlocks, x ∈ bs) (w : Hub.Within bs h g) (x : Exchange) (p : List Byte) :
    Hub.Within bs h (g.reportArrived x p) := by
  have hs : Block.surface ∈ bs := hb _ (by decide)
  unfold Hub.reportArrived Hub.reloadAllowance
  dsimp only
  repeat' first
    | assumption | with_reducible apply handleReport | with_reducible apply putNode | with_reducible apply editNode
    | with_reducible apply withSurface | split

theorem pollEnd (hb : ∀ x ∈ cueBlocks, x ∈ bs) (w : Hub.Within bs h g) (x : Exchange) (o : LineOutcome) :
    Hub.Within bs h (g.pollEnd x o) :=
  w.commonEnd (hb _ (by decide)) (hb _ (by decide)) (hb _ (by decide)) x.node o (fun p => w.reportArrived hb x p)

theorem probeEnd (hs : Block.surface ∈ bs) (hm : Block.meters ∈ bs) (hl : Block.link ∈ bs) (w : Hub.Within bs h g) (x : Exchange) (o : LineOutcome) :
    Hub.Within bs h (g.probeEnd x o) := by
  unfold Hub.probeEnd Hub.postNode
  dsimp only
  repeat' first
    | assumption | with_reducible apply nodeHalted | with_reducible apply post | with_reducible apply editNode | split

theorem resetVisitEnd (hs : Block.surface ∈ bs) (hl : Block.link ∈ bs) (w : Hub.Within bs h g) (x : Exchange) (o : LineOutcome) :
    Hub.Within bs h (g.resetVisitEnd x o) := by
  unfold Hub.resetVisitEnd Hub.postNode
  repeat' first
    | assumption | with_reducible apply answerReset | with_reducible apply post | with_reducible apply editNode | split

/-- An exchange that is not the POLL of a full visit stays with the surface, the link and the meters' posted values, which a reset visit
leaves too. -/
theorem exchangeOutcome {k : ExchangeKind} (hs : Block.surface ∈ bs) (hm : k ≠ .resetVisit → Block.meters ∈ bs) (hl : Block.link ∈ bs) (w : Hub.Within bs h g) (x : Exchange) (o : LineOutcome)
    (hk : x.kind = k) (hp : k ≠ .poll) : Hub.Within bs h (g.exchangeOutcome x o) := by
  subst hk
  unfold Hub.exchangeOutcome
  split <;> rename_i he
  · exact w.resetEnd hs (hm (by simp [he])) hl x o
  · exact w.writeEnd hs (hm (by simp [he])) hl x o
  · contradiction
  · exact w.probeEnd hs (hm (by simp [he])) hl x o
  · exact w.resetVisitEnd hs hl x o

/-- A timeout hands no event over, whatever the exchange. -/
theorem exchangeTimeout (hs : Block.surface ∈ bs) (hm : Block.meters ∈ bs) (hl : Block.link ∈ bs) (w : Hub.Within bs h g) (x : Exchange) :
    Hub.Within bs h (g.exchangeOutcome x .timeout) := by
  by_cases hp : x.kind = .poll
  · unfold Hub.exchangeOutcome Hub.pollEnd Hub.commonEnd
    simp only [hp]
    exact w.exchangeError hs hm hl _
  · exact w.exchangeOutcome hs (fun _ => hm) hl x _ rfl hp

theorem answerTimeout (hs : Block.surface ∈ bs) (hm : Block.meters ∈ bs) (hl : Block.link ∈ bs) (w : Hub.Within bs h g) : Hub.Within bs h g.answerTimeout := by
  unfold Hub.answerTimeout Hub.endExchange
  dsimp only
  repeat' first | assumption | with_reducible apply exchangeTimeout | with_reducible apply withSurface | split

theorem answerArrives {k : ExchangeKind} (hs : Block.surface ∈ bs) (hm : k ≠ .resetVisit → Block.meters ∈ bs) (hl : Block.link ∈ bs)
    (w : Hub.Within bs h g) (hk : k ≠ .poll) (a : LineAnswer) : Hub.Within bs h (g.answerArrives k a) := by
  unfold Hub.answerArrives Hub.endExchange
  dsimp only
  split
  · exact w
  · split
    · rename_i hx
      split
      · exact w.withSurface hs _
      · exact (w.withSurface hs _).exchangeOutcome hs hm hl _ _ hx hk
    · exact w

theorem pollArrives (hb : ∀ x ∈ cueBlocks, x ∈ bs) (w : Hub.Within bs h g) (a : LineAnswer) :
    Hub.Within bs h (g.answerArrives .poll a) := by
  have hs : Block.surface ∈ bs := hb _ (by decide)
  unfold Hub.answerArrives Hub.endExchange Hub.exchangeOutcome
  dsimp only
  split
  · exact w
  · split
    · rename_i hx
      split
      · exact w.withSurface hs _
      · simp only [hx]; exact (w.withSurface hs _).pollEnd hb _ _
    · exact w

/-! ### Rate changes, the frame boundary, the arbiter -/

theorem enterSource (hc : Block.clock ∈ bs) (hd : Block.draws ∈ bs) (w : Hub.Within bs h g) : Hub.Within bs h g.enterSource := by
  unfold Hub.enterSource
  repeat' first | assumption | with_reducible apply enterAcquiring | with_reducible apply withClock | split

theorem changeSource (hc : Block.clock ∈ bs) (hd : Block.draws ∈ bs) (hl : Block.link ∈ bs) (w : Hub.Within bs h g) (s : Source) :
    Hub.Within bs h (g.changeSource s) := ((w.withClock hc _).enterSource hc hd).postClock hl _

theorem changeRate (hc : Block.clock ∈ bs) (hd : Block.draws ∈ bs) (hl : Block.link ∈ bs) (ho : Block.outputs ∈ bs)
    (ht : Block.tallies ∈ bs) (hq : Block.cues ∈ bs) (hs : Block.surface ∈ bs) (hm : Block.meters ∈ bs) (w : Hub.Within bs h g)
    (s : Source) (r : Rate) : Hub.Within bs h (g.changeRate s r) := by
  unfold Hub.changeRate Hub.rateEffects
  dsimp only
  repeat' first
    | assumption | with_reducible apply postClock | with_reducible apply enterSource | with_reducible apply flushCues
    | with_reducible apply withClock | with_reducible apply withSurface | with_reducible apply metersRateChange
    | with_reducible apply outputsRateChange | with_reducible apply stopTallies

theorem frameBoundary (hb : ∀ x ∈ (Block.clock :: .ports :: .draws :: cueBlocks), x ∈ bs) (w : Hub.Within bs h g) (m : Nat)
    (wire : List (List SlotWord)) : Hub.Within bs h (g.frameBoundary m wire) := by
  have hcue : ∀ x ∈ cueBlocks, x ∈ bs := fun x hx => hb x (by simp [hx])
  have hc : Block.clock ∈ bs := hb _ (by decide)
  have hp : Block.ports ∈ bs := hb _ (by decide)
  have hd : Block.draws ∈ bs := hb _ (by decide)
  have he : Block.engine ∈ bs := hb _ (by decide)
  have hs : Block.surface ∈ bs := hb _ (by decide)
  have ho : Block.outputs ∈ bs := hb _ (by decide)
  have ht : Block.tallies ∈ bs := hb _ (by decide)
  have hm : Block.meters ∈ bs := hb _ (by decide)
  have hl : Block.link ∈ bs := hb _ (by decide)
  unfold Hub.frameBoundary
  split
  · exact w
  · exact ((((((((((w.withClock hc _).portsBegin hp hl _ _).fireDue hcue _).outputsAtBoundary ho _).metersPeriodEnd hm hs he hl
      _).talliesAtBoundary ht _).settlePlay he hl _).captureWrite he hl _).portsShiftOut hp).metersSample hm hl _).drawn hd

theorem takeCapture (he : Block.engine ∈ bs) (hl : Block.link ∈ bs) (hs : Block.linkState ∈ bs) (w : Hub.Within bs h g) (o : Offer) :
    Hub.Within bs h (g.takeCapture o) := by
  unfold Hub.takeCapture
  split
  · exact w
  · exact (w.withLink hl hs _).takeBlock he hl _ _

theorem transmitTake (he : Block.engine ∈ bs) (hl : Block.link ∈ bs) (hs : Block.linkState ∈ bs) (w : Hub.Within bs h g) :
    Hub.Within bs h g.transmitTake := by
  unfold Hub.transmitTake Hub.takeOther
  repeat' first | assumption | with_reducible apply takeCapture | with_reducible apply withLink | split

end Hub.Within

end Sys2Proof.Machine
end

