-- ==== Sys2Proof/Laws/Handlers.lean ====
section
/-! SUPPORT. The frame of every command's handler, and of a command's dispatch. -/

namespace Sys2Proof.Machine.Hub.Within

variable {bs : List Block} {h g : Hub} (ctx : CommandCtx) (body : List Byte)

/-! ### Handlers that only report -/

theorem getClock (w : Hub.Within bs h g) : Hub.Within bs h (Machine.getClock g ctx body).1 := by
  unfold Machine.getClock; split <;> exact w

theorem getOutputs (w : Hub.Within bs h g) : Hub.Within bs h (Machine.getOutputs g ctx body).1 := by
  unfold Machine.getOutputs; split <;> exact w

theorem getStream (w : Hub.Within bs h g) : Hub.Within bs h (Machine.getStream g ctx body).1 := by
  unfold Machine.getStream withStream; repeat' first | exact w | split

theorem getPool (w : Hub.Within bs h g) : Hub.Within bs h (Machine.getPool g ctx body).1 := by
  unfold Machine.getPool; split <;> exact w

theorem listCues (w : Hub.Within bs h g) : Hub.Within bs h (Machine.listCues g ctx body).1 := by
  unfold Machine.listCues; split <;> exact w

theorem getPort (w : Hub.Within bs h g) : Hub.Within bs h (Machine.getPort g ctx body).1 := by
  unfold Machine.getPort withPort; repeat' first | exact w | split

theorem getControlBus (w : Hub.Within bs h g) : Hub.Within bs h (Machine.getControlBus g ctx body).1 := by
  unfold Machine.getControlBus; split <;> exact w

theorem getNode (w : Hub.Within bs h g) : Hub.Within bs h (Machine.getNode g ctx body).1 := by
  unfold Machine.getNode; repeat' first | exact w | split

theorem listBindings (w : Hub.Within bs h g) : Hub.Within bs h (Machine.listBindings g ctx body).1 := by
  unfold Machine.listBindings; split <;> exact w

theorem readMeters (w : Hub.Within bs h g) : Hub.Within bs h (Machine.readMeters g ctx body).1 := by
  unfold Machine.readMeters; dsimp only; repeat' first | exact w | split

theorem describe (w : Hub.Within bs h g) : Hub.Within bs h (Machine.describe g ctx body).1 := by
  unfold Machine.describe; split <;> exact w

theorem unknownCommand (w : Hub.Within bs h g) : Hub.Within bs h (Machine.unknownCommand g ctx body).1 := w

/-! ### Handlers that change a block -/

theorem setClock (hc : Block.clock ∈ bs) (hd : Block.draws ∈ bs) (hl : Block.link ∈ bs) (ho : Block.outputs ∈ bs)
    (ht : Block.tallies ∈ bs) (hq : Block.cues ∈ bs) (hs : Block.surface ∈ bs) (hm : Block.meters ∈ bs) (w : Hub.Within bs h g) :
    Hub.Within bs h (Machine.setClock g ctx body).1 := by
  unfold Machine.setClock Hub.refuse Hub.accept
  repeat' first | assumption | with_reducible apply changeRate | with_reducible apply changeSource | split

theorem setClockOutput (ho : Block.outputs ∈ bs) (w : Hub.Within bs h g) :
    Hub.Within bs h (Machine.setClockOutput g ctx body).1 := by
  unfold Machine.setClockOutput Hub.refuse Hub.accept
  repeat' first | assumption | with_reducible apply putOut | split

theorem setTally (ht : Block.tallies ∈ bs) (w : Hub.Within bs h g) : Hub.Within bs h (Machine.setTally g ctx body).1 := by
  unfold Machine.setTally Hub.refuse Hub.accept
  repeat' first | assumption | with_reducible apply putTally | split

theorem runTally (ht : Block.tallies ∈ bs) (w : Hub.Within bs h g) : Hub.Within bs h (Machine.runTally g ctx body).1 := by
  unfold Machine.runTally Hub.refuse Hub.accept
  repeat' first | assumption | with_reducible apply putTally | split

theorem stopTally (ht : Block.tallies ∈ bs) (w : Hub.Within bs h g) : Hub.Within bs h (Machine.stopTally g ctx body).1 := by
  unfold Machine.stopTally Hub.refuse Hub.accept
  repeat' first | assumption | with_reducible apply putTally | split

theorem defineStream (he : Block.engine ∈ bs) (w : Hub.Within bs h g) : Hub.Within bs h (Machine.defineStream g ctx body).1 := by
  unfold Machine.defineStream Hub.refuse Hub.accept
  dsimp only
  repeat' first | assumption | with_reducible apply withEngine | split

theorem armStream (he : Block.engine ∈ bs) (hl : Block.link ∈ bs) (w : Hub.Within bs h g) :
    Hub.Within bs h (Machine.armStream g ctx body).1 := by
  unfold Machine.armStream withStream Hub.refuse Hub.accept
  dsimp only
  repeat' first | assumption | with_reducible apply changeStream | split

theorem triggerStream (he : Block.engine ∈ bs) (hl : Block.link ∈ bs) (w : Hub.Within bs h g) :
    Hub.Within bs h (Machine.triggerStream g ctx body).1 := by
  unfold Machine.triggerStream withStream Hub.refuse Hub.accept
  dsimp only
  repeat' first | assumption | with_reducible apply trigger | split

theorem stopStreamCommand (he : Block.engine ∈ bs) (hl : Block.link ∈ bs) (w : Hub.Within bs h g) :
    Hub.Within bs h (Machine.stopStream g ctx body).1 := by
  unfold Machine.stopStream withStream Hub.refuse Hub.accept
  dsimp only
  repeat' first | assumption | with_reducible apply stopStream | split

theorem deleteStream (he : Block.engine ∈ bs) (w : Hub.Within bs h g) : Hub.Within bs h (Machine.deleteStream g ctx body).1 := by
  unfold Machine.deleteStream withStream Hub.refuse Hub.accept
  dsimp only
  repeat' first | assumption | with_reducible apply withEngine | split

theorem postCue (hb : ∀ x ∈ cueBlocks, x ∈ bs) (w : Hub.Within bs h g) : Hub.Within bs h (Machine.postCue g ctx body).1 := by
  have hc : Block.cues ∈ bs := hb _ (by decide)
  unfold Machine.postCue Hub.postCue Hub.refuse Hub.accept
  dsimp only
  repeat' first | assumption | with_reducible apply fireCue | with_reducible apply withCues | split

theorem cancelCue (hc : Block.cues ∈ bs) (w : Hub.Within bs h g) : Hub.Within bs h (Machine.cancelCue g ctx body).1 := by
  unfold Machine.cancelCue Hub.refuse Hub.accept
  dsimp only
  repeat' first | assumption | with_reducible apply withCues | split

theorem flushCuesCommand (hc : Block.cues ∈ bs) (hl : Block.link ∈ bs) (w : Hub.Within bs h g) :
    Hub.Within bs h (Machine.flushCues g ctx body).1 := by
  unfold Machine.flushCues Hub.refuse Hub.accept
  repeat' first | assumption | with_reducible apply flushCues | split

theorem configurePort (hp : Block.ports ∈ bs) (w : Hub.Within bs h g) : Hub.Within bs h (Machine.configurePort g ctx body).1 := by
  unfold Machine.configurePort Hub.refuse Hub.accept
  dsimp only
  repeat' first | assumption | with_reducible apply putPort | split

theorem setInitList (hp : Block.ports ∈ bs) (w : Hub.Within bs h g) : Hub.Within bs h (Machine.setInitList g ctx body).1 := by
  unfold Machine.setInitList Hub.refuse Hub.accept
  repeat' first | assumption | with_reducible apply putPort | split

theorem startPort (hb : Block.bus ∈ bs) (hp : Block.ports ∈ bs) (hl : Block.link ∈ bs) (w : Hub.Within bs h g) :
    Hub.Within bs h (Machine.startPort g ctx body).1 := by
  unfold Machine.startPort withPort Hub.refuse Hub.accept
  dsimp only
  repeat' first | assumption | with_reducible apply startSettling | with_reducible apply startInit | split

theorem stopPort (hb : Block.bus ∈ bs) (hp : Block.ports ∈ bs) (hl : Block.link ∈ bs) (w : Hub.Within bs h g) :
    Hub.Within bs h (Machine.stopPort g ctx body).1 := by
  unfold Machine.stopPort withPort Hub.refuse Hub.accept
  dsimp only
  repeat' first
    | assumption | with_reducible apply postPort | with_reducible apply putPort | with_reducible apply withBus | split

theorem converterXfer (hb : Block.bus ∈ bs) (w : Hub.Within bs h g) : Hub.Within bs h (Machine.converterXfer g ctx body).1 := by
  unfold Machine.converterXfer Hub.refuse
  repeat' first | assumption | with_reducible apply withBus | split

/-- A waiting XFER job that is aborted answers through the link alone: the frame of ABORT_XFER names the ports because a job's outcome
may go to a port. -/
theorem abortXfer (hb : Block.bus ∈ bs) (hl : Block.link ∈ bs) (w : Hub.Within bs h g) :
    Hub.Within bs h (Machine.abortXfer g ctx body).1 := by
  unfold Machine.abortXfer Hub.refuse Hub.accept
  dsimp only
  split
  · exact w
  · split
    · exact w.withBus hb _
    · split
      · exact w
      · rename_i k j hj
        have hx : j.kind.isXferOf (BitVec.ofNat 16 (fieldAt body 0 2)) = true := by
          rw [Option.bind_eq_some_iff] at hj
          obtain ⟨k', hk', hj'⟩ := hj
          rw [Option.map_eq_some_iff] at hj'
          obtain ⟨j', hj', e⟩ := hj'
          cases e
          unfold ControlBus.waitingXfer at hk'
          obtain ⟨hlt, hp, _⟩ := List.findIdx?_eq_some_iff_getElem.mp hk'
          rw [List.getElem?_eq_some_iff] at hj'
          obtain ⟨_, e⟩ := hj'
          exact e ▸ hp
        unfold Hub.jobOutcome
        split
        · exact (w.withBus hb _).answer hl _ _
        · rename_i e; simp [JobKind.isXferOf, e] at hx
        · rename_i e; simp [JobKind.isXferOf, e] at hx

theorem setNode (hs : Block.surface ∈ bs) (hm : Block.meters ∈ bs) (hl : Block.link ∈ bs) (w : Hub.Within bs h g) :
    Hub.Within bs h (Machine.setNode g ctx body).1 := by
  unfold Machine.setNode Hub.refuse Hub.accept
  dsimp only
  repeat' first | assumption | with_reducible apply disableNode | with_reducible apply putNode | split

theorem resetNode (hs : Block.surface ∈ bs) (w : Hub.Within bs h g) : Hub.Within bs h (Machine.resetNode g ctx body).1 := by
  unfold Machine.resetNode Hub.refuse
  repeat' first | assumption | with_reducible apply putNode | split

theorem surfaceWrite (hs : Block.surface ∈ bs) (w : Hub.Within bs h g) : Hub.Within bs h (Machine.surfaceWrite g ctx body).1 := by
  unfold Machine.surfaceWrite Hub.refuse Hub.accept
  split
  · exact w
  · split
    · rename_i k _ _
      split
      · exact w
      · have ws := w.handSetting hs (byteAt body 0) (byteAt body 1) k (fieldAt body 3 2)
        split
        · rename_i e; rw [e] at ws; exact ws
        · exact w
        · exact w
    · exact w

theorem setBinding (hs : Block.surface ∈ bs) (w : Hub.Within bs h g) : Hub.Within bs h (Machine.setBinding g ctx body).1 := by
  unfold Machine.setBinding Hub.refuse Hub.accept
  repeat' first | assumption | with_reducible apply withSurface | split

theorem clearBinding (hs : Block.surface ∈ bs) (w : Hub.Within bs h g) : Hub.Within bs h (Machine.clearBinding g ctx body).1 := by
  unfold Machine.clearBinding Hub.refuse Hub.accept
  repeat' first | assumption | with_reducible apply withSurface | split

theorem setMeter (hm : Block.meters ∈ bs) (w : Hub.Within bs h g) : Hub.Within bs h (Machine.setMeter g ctx body).1 := by
  unfold Machine.setMeter Hub.refuse Hub.accept
  dsimp only
  repeat' first | assumption | with_reducible apply putMeter | split

theorem setMeterDisplay (hm : Block.meters ∈ bs) (w : Hub.Within bs h g) :
    Hub.Within bs h (Machine.setMeterDisplay g ctx body).1 := by
  unfold Machine.setMeterDisplay Hub.refuse Hub.accept
  repeat' first | assumption | with_reducible apply putMeter | split

theorem clearMeters (hm : Block.meters ∈ bs) (w : Hub.Within bs h g) : Hub.Within bs h (Machine.clearMeters g ctx body).1 := by
  unfold Machine.clearMeters Hub.refuse Hub.accept
  dsimp only
  repeat' first | assumption | with_reducible apply withMeters | split

theorem resetPart (ha : ∀ x ∈ allBlocks, x ∈ bs) (hd : Block.draws ∈ bs) (w : Hub.Within bs h g) : Hub.Within bs h (Machine.resetPart g ctx body).1 := by
  unfold Machine.resetPart Hub.refuse Hub.accept
  split
  · exact w
  · exact {
      resetN := w.resetN
      clock := fun n => absurd (ha _ (by decide)) n
      outputs := fun n => absurd (ha _ (by decide)) n
      tallies := fun n => absurd (ha _ (by decide)) n
      engine := fun n => absurd (ha _ (by decide)) n
      cues := fun n => absurd (ha _ (by decide)) n
      ports := fun n => absurd (ha _ (by decide)) n
      bus := fun n => absurd (ha _ (by decide)) n
      surface := fun n => absurd (ha _ (by decide)) n
      meters := fun n => absurd (ha _ (by decide)) n
      link := fun n => absurd (ha _ (by decide)) n
      linkState := fun n => absurd (ha _ (by decide)) n
      draws := fun n => absurd hd n }

/-! ### Dispatch -/

/-- Dispatching a command takes an entry, runs its handler and may answer. -/
theorem runCommand (hl : Block.link ∈ bs) (hs : Block.linkState ∈ bs) (w : Hub.Within bs h g) (code : Byte) {f : Handler}
    (hf : ∀ {g : Hub} (ctx : CommandCtx) (body : List Byte), Hub.Within bs h g → Hub.Within bs h (f g ctx body).1) (tag : Tag) :
    Hub.Within bs h (g.runCommand code f tag body) := by
  have wf := hf ⟨tag, g.link.serial⟩ body (w.withLink hl hs g.link.takeEntry)
  unfold Hub.runCommand
  generalize f (g.withLink g.link.takeEntry) ⟨tag, g.link.serial⟩ body = r at wf
  obtain ⟨g1, a⟩ := r
  cases a with
  | reply st fields => exact wf.answer hl _ _
  | deferred => exact wf

/-- A command of the computer, whether it is dispatched, pauses, or is not taken. -/
theorem command (hl : Block.link ∈ bs) (hs : Block.linkState ∈ bs) (w : Hub.Within bs h g) (code : Byte) {f : Handler}
    (hf : ∀ {g : Hub} (ctx : CommandCtx) (body : List Byte), Hub.Within bs h g → Hub.Within bs h (f g ctx body).1) (tag : Tag) :
    Hub.Within bs h (g.command code f tag body) := by
  unfold Hub.command
  split
  · split
    · exact w.runCommand body hl hs code hf tag
    · exact w.withLink hl hs _
  · exact w

end Sys2Proof.Machine.Hub.Within
end

