-- ==== Sys2Proof/Laws/Notices.lean ====
section
/-! SUPPORT. Posting a notice and answering a reply entry: what each can do to the Link Interface, said once. -/

namespace Sys2Proof.Machine

/-! ### Posting -/

/-- Everything `Link.join` can do. -/
theorem Link.join_cases (l : Link) (stamp : Nat) (body : NoticeBody) :
    (l.notices.length < Config.noticeCapacity ∧ l.join stamp body = { l with notices := l.notices ++ [⟨stamp, body⟩] }) ∨
      (Config.noticeCapacity ≤ l.notices.length ∧ l.join stamp body = { l with lost := true }) := by
  unfold Link.join
  split
  · exact .inl ⟨by assumption, rfl⟩
  · exact .inr ⟨by omega, rfl⟩

/-- Everything `Link.post` can do: update the waiting notice of the key, join the queue, or drop the notice and set LOST. -/
theorem Link.post_cases (l : Link) (stamp : Nat) (body : NoticeBody) :
    (∃ k, body.key = some k ∧ keyWaits l.notices k = true ∧
        l.post stamp body = { l with notices := updateWaiting l.notices k stamp body }) ∨
      ((∀ k, body.key = some k → keyWaits l.notices k = false) ∧ l.notices.length < Config.noticeCapacity ∧
        l.post stamp body = { l with notices := l.notices ++ [⟨stamp, body⟩] }) ∨
      ((∀ k, body.key = some k → keyWaits l.notices k = false) ∧ Config.noticeCapacity ≤ l.notices.length ∧
        l.post stamp body = { l with lost := true }) := by
  unfold Link.post
  split
  · rename_i hk
    obtain ⟨a, b⟩ | ⟨a, b⟩ := Link.join_cases l stamp body
    · exact .inr (.inl ⟨by simp [hk], a, b⟩)
    · exact .inr (.inr ⟨by simp [hk], a, b⟩)
  · rename_i k hk
    split
    · exact .inl ⟨k, hk, by assumption, rfl⟩
    · rename_i hw
      have hw' : ∀ k', body.key = some k' → keyWaits l.notices k' = false := by
        intro k' e; rw [hk] at e; cases e; simpa using hw
      obtain ⟨a, b⟩ | ⟨a, b⟩ := Link.join_cases l stamp body
      · exact .inr (.inl ⟨hw', a, b⟩)
      · exact .inr (.inr ⟨hw', a, b⟩)

section post

variable (l : Link) (stamp : Nat) (body : NoticeBody)

/-- Posting touches the notice queue and the LOST flag alone. -/
theorem Link.post_only : ∃ q b, l.post stamp body = { l with notices := q, lost := b } := by
  obtain ⟨_, _, _, e⟩ | ⟨_, _, e⟩ | ⟨_, _, e⟩ := Link.post_cases l stamp body
  · exact ⟨_, l.lost, e⟩
  · exact ⟨_, l.lost, e⟩
  · exact ⟨l.notices, true, e⟩

@[simp] theorem Link.post_configured : (l.post stamp body).configured = l.configured := by
  obtain ⟨q, b, e⟩ := Link.post_only l stamp body; rw [e]
@[simp] theorem Link.post_suspended : (l.post stamp body).suspended = l.suspended := by
  obtain ⟨q, b, e⟩ := Link.post_only l stamp body; rw [e]
@[simp] theorem Link.post_mark : (l.post stamp body).mark = l.mark := by
  obtain ⟨q, b, e⟩ := Link.post_only l stamp body; rw [e]
@[simp] theorem Link.post_lastFrame : (l.post stamp body).lastFrame = l.lastFrame := by
  obtain ⟨q, b, e⟩ := Link.post_only l stamp body; rw [e]
@[simp] theorem Link.post_assembly : (l.post stamp body).assembly = l.assembly := by
  obtain ⟨q, b, e⟩ := Link.post_only l stamp body; rw [e]
@[simp] theorem Link.post_paused : (l.post stamp body).paused = l.paused := by
  obtain ⟨q, b, e⟩ := Link.post_only l stamp body; rw [e]
@[simp] theorem Link.post_behind : (l.post stamp body).behind = l.behind := by
  obtain ⟨q, b, e⟩ := Link.post_only l stamp body; rw [e]
@[simp] theorem Link.post_behindEnds : (l.post stamp body).behindEnds = l.behindEnds := by
  obtain ⟨q, b, e⟩ := Link.post_only l stamp body; rw [e]
@[simp] theorem Link.post_held : (l.post stamp body).held = l.held := by
  obtain ⟨q, b, e⟩ := Link.post_only l stamp body; rw [e]
@[simp] theorem Link.post_replies : (l.post stamp body).replies = l.replies := by
  obtain ⟨q, b, e⟩ := Link.post_only l stamp body; rw [e]
@[simp] theorem Link.post_serial : (l.post stamp body).serial = l.serial := by
  obtain ⟨q, b, e⟩ := Link.post_only l stamp body; rw [e]
@[simp] theorem Link.post_count : (l.post stamp body).count = l.count := by
  obtain ⟨q, b, e⟩ := Link.post_only l stamp body; rw [e]
@[simp] theorem Link.post_sending : (l.post stamp body).sending = l.sending := by
  obtain ⟨q, b, e⟩ := Link.post_only l stamp body; rw [e]
@[simp] theorem Link.post_entriesHeld : (l.post stamp body).entriesHeld = l.entriesHeld := by
  simp [Link.entriesHeld]

end post

/-- A post reads and writes the notice queue and LOST alone, so it does not matter what stands in the link's other fields. -/
theorem Link.post_frame (l m : Link) (stamp : Nat) (body : NoticeBody) (hn : m.notices = l.notices) (hl : m.lost = l.lost) :
    m.post stamp body = { m with notices := (l.post stamp body).notices, lost := (l.post stamp body).lost } := by
  unfold Link.post Link.join
  rw [hn]
  split
  · split <;> simp_all
  · split
    · simp_all
    · split <;> simp_all

/-! ### Where a posted notice stands -/

theorem keyWaits_eq_false {q : List Notice} {k : NoticeKey} (h : keyWaits q k = false) :
    k ∉ q.filterMap (fun w => w.body.key) := by
  simp only [keyWaits, List.any_eq_false, beq_iff_eq] at h
  intro hk
  obtain ⟨w, hw, e⟩ := List.mem_filterMap.mp hk
  exact h w hw e

theorem keyWaits_eq_true {q : List Notice} {k : NoticeKey} (h : keyWaits q k = true) : ∃ w ∈ q, w.body.key = some k := by
  simpa [keyWaits] using h

/-- A notice whose key does not wait joins the queue, unless it is dropped. -/
theorem Link.post_joined (l : Link) (stamp : Nat) (body : NoticeBody) : Link.Joined l (l.post stamp body) stamp body := by
  intro free room
  obtain ⟨k, hk, hw, -⟩ | ⟨-, -, e⟩ | ⟨-, full, e⟩ := Link.post_cases l stamp body
  · obtain ⟨w, hm, hb⟩ := keyWaits_eq_true hw
    exact absurd (hb.trans hk.symm) (free w hm)
  · simp [e]
  · simp only [e, Bool.true_eq_false, or_false] at room
    unfold Config.noticeCapacity at full
    omega

/-- A notice whose key waits updates the waiting one in its place. -/
theorem Link.post_updated (l : Link) (stamp : Nat) (old body : NoticeBody) (hk : body.key ≠ none) (ho : old.key = body.key) :
    Link.Updated l (l.post stamp body) stamp old (old.merge body) := by
  intro k was h
  obtain ⟨key, hb, -, e⟩ | ⟨none, -, -⟩ | ⟨none, -, -⟩ := Link.post_cases l stamp body
  · simp [e, updateWaiting, h, ho, hb]
  all_goals
    obtain ⟨key, hb⟩ := Option.ne_none_iff_exists'.mp hk
    have := keyWaits_eq_false (none key hb)
    exact absurd (List.mem_filterMap.mpr ⟨_, List.mem_of_getElem? h, ho.trans hb⟩) this

/-- A notice keeps its place, its stamp and its fields over the post of another key. -/
theorem Link.post_keeps (l : Link) (stamp k : Nat) (body : NoticeBody) (w : Notice) (h : l.notices[k]? = some w)
    (hk : body.key = none ∨ w.body.key ≠ body.key) : (l.post stamp body).notices[k]? = some w := by
  obtain ⟨key, hb, -, e⟩ | ⟨-, -, e⟩ | ⟨-, -, e⟩ := Link.post_cases l stamp body
  · simp_all [updateWaiting]
  · rw [e]
    exact (List.getElem?_append_left (List.getElem?_eq_some_iff.mp h).1).trans h
  · rw [e]
    exact h

/-- The queue does not shrink when a notice is posted, and LOST is not cleared. -/
theorem Link.post_grows (l : Link) (stamp : Nat) (body : NoticeBody) :
    l.notices.length ≤ (l.post stamp body).notices.length ∧ (l.lost = true → (l.post stamp body).lost = true) := by
  obtain ⟨key, -, -, e⟩ | ⟨-, -, e⟩ | ⟨-, -, e⟩ := Link.post_cases l stamp body <;> simp [e, updateWaiting]

/-! ### Keys -/

/-- Updating a waiting notice keeps its key. -/
theorem NoticeBody.merge_key (a b : NoticeBody) (k : NoticeKey) (ha : a.key = some k) (hb : b.key = some k) :
    (a.merge b).key = some k := by
  unfold NoticeBody.merge
  split <;> assumption

theorem updateWaiting_length (q : List Notice) (k : NoticeKey) (stamp : Nat) (body : NoticeBody) :
    (updateWaiting q k stamp body).length = q.length := by simp [updateWaiting]

/-- Updating in place keeps the keys of the whole queue. -/
theorem updateWaiting_keys (q : List Notice) (k : NoticeKey) (stamp : Nat) (body : NoticeBody) (hb : body.key = some k) :
    (updateWaiting q k stamp body).filterMap (fun w => w.body.key) = q.filterMap (fun w => w.body.key) := by
  induction q with
  | nil => rfl
  | cons w q ih =>
    simp only [updateWaiting, List.map_cons] at ih ⊢
    by_cases hw : w.body.key = some k
    · have := NoticeBody.merge_key w.body body k hw hb
      simp only [hw, if_true, List.filterMap_cons, this]
      simp only [ih]
    · simp only [hw, if_false, List.filterMap_cons, ih]


/-- A post keeps the notice queue within its capacity and its keys distinct (R180). -/
theorem Link.noticesFit.post {l : Link} (h : l.noticesFit) (stamp : Nat) (body : NoticeBody) : (l.post stamp body).noticesFit := by
  obtain ⟨hlen, hnd⟩ := h
  obtain ⟨k, hk, _, e⟩ | ⟨hk, hfree, e⟩ | ⟨_, _, e⟩ := Link.post_cases l stamp body
  · rw [e]
    exact ⟨by simpa [updateWaiting_length] using hlen, by simpa [updateWaiting_keys _ _ _ _ hk] using hnd⟩
  · rw [e]
    refine ⟨by simp only [List.length_append, List.length_singleton]; omega, ?_⟩
    simp only [List.filterMap_append, List.filterMap_cons, List.filterMap_nil]
    cases hb : body.key with
    | none => simpa [hb] using hnd
    | some k =>
      have := keyWaits_eq_false (hk k hb)
      simp only [List.nodup_append, hnd, true_and]
      refine ⟨by simp, ?_⟩
      intro a ha b hb'
      simp only [List.mem_singleton] at hb'
      subst hb'
      exact fun e => this (e ▸ ha)
  · rw [e]; exact ⟨hlen, hnd⟩

/-! ### Answering -/

/-- Everything `Link.answer` can do. -/
theorem Link.answer_cases (l : Link) (entry : Nat) (r : Reply) :
    (entry ∈ l.held ∧ l.answer entry r = { l with held := l.held.erase entry, replies := l.replies ++ [r] }) ∨
      (entry ∉ l.held ∧ l.answer entry r = l) := by
  unfold Link.answer
  split
  · rename_i h; exact .inl ⟨by simpa using h, rfl⟩
  · rename_i h; exact .inr ⟨by simpa using h, rfl⟩

section answer

variable (l : Link) (entry : Nat) (r : Reply)

@[simp] theorem Link.answer_notices : (l.answer entry r).notices = l.notices := by
  obtain ⟨_, e⟩ | ⟨_, e⟩ := Link.answer_cases l entry r <;> rw [e]
@[simp] theorem Link.answer_lost : (l.answer entry r).lost = l.lost := by
  obtain ⟨_, e⟩ | ⟨_, e⟩ := Link.answer_cases l entry r <;> rw [e]
@[simp] theorem Link.answer_serial : (l.answer entry r).serial = l.serial := by
  obtain ⟨_, e⟩ | ⟨_, e⟩ := Link.answer_cases l entry r <;> rw [e]
@[simp] theorem Link.answer_configured : (l.answer entry r).configured = l.configured := by
  obtain ⟨_, e⟩ | ⟨_, e⟩ := Link.answer_cases l entry r <;> rw [e]
@[simp] theorem Link.answer_paused : (l.answer entry r).paused = l.paused := by
  obtain ⟨_, e⟩ | ⟨_, e⟩ := Link.answer_cases l entry r <;> rw [e]
@[simp] theorem Link.answer_mark : (l.answer entry r).mark = l.mark := by
  obtain ⟨_, e⟩ | ⟨_, e⟩ := Link.answer_cases l entry r <;> rw [e]
@[simp] theorem Link.answer_assembly : (l.answer entry r).assembly = l.assembly := by
  obtain ⟨_, e⟩ | ⟨_, e⟩ := Link.answer_cases l entry r <;> rw [e]

/-- An answered entry goes from the commands in progress to the reply queue, so as many entries are held as before. -/
@[simp] theorem Link.answer_entriesHeld : (l.answer entry r).entriesHeld = l.entriesHeld := by
  obtain ⟨h, e⟩ | ⟨_, e⟩ := Link.answer_cases l entry r
  · rw [e]
    have := List.length_pos_of_mem h
    simp only [Link.entriesHeld, List.length_erase_of_mem h, List.length_append, List.length_singleton]
    omega
  · rw [e]

end answer

/-- Taking an entry for a command and answering it at once leaves the reply in the queue and no entry more in progress. -/
theorem Link.takeEntry_answer (l : Link) (r : Reply) (h : l.serial ∉ l.held) : (l.takeEntry).answer l.serial r = l.replied r := by
  unfold Link.answer Link.takeEntry Link.replied
  simp [List.erase_append_right _ h]

theorem Link.noticesFit.answer {l : Link} (h : l.noticesFit) (entry : Nat) (r : Reply) : (l.answer entry r).noticesFit := by
  unfold Link.noticesFit at *; simpa using h

theorem Link.entriesFit.post {l : Link} (h : l.entriesFit) (stamp : Nat) (body : NoticeBody) : (l.post stamp body).entriesFit := by
  unfold Link.entriesFit at *; simpa using h

theorem Link.entriesFit.answer {l : Link} (h : l.entriesFit) (entry : Nat) (r : Reply) : (l.answer entry r).entriesFit := by
  obtain ⟨h1, h2, h3⟩ := h
  refine ⟨by simpa using h1, ?_, ?_⟩
  · obtain ⟨_, e⟩ | ⟨_, e⟩ := Link.answer_cases l entry r
    · rw [e]; exact h2.erase _
    · rw [e]; exact h2
  · obtain ⟨_, e⟩ | ⟨_, e⟩ := Link.answer_cases l entry r
    · rw [e]; exact fun x hx => h3 x (List.mem_of_mem_erase hx)
    · rw [e]; exact h3

/-! ### What other blocks can do to the Link Interface -/

namespace Link.Reports

theorem noticesFit {l m : Link} (h : Link.Reports l m) (hl : l.noticesFit) : m.noticesFit := by
  induction h with
  | refl => exact hl
  | post _ stamp body ih => exact ih.post stamp body
  | answer _ e r ih => exact ih.answer e r

theorem entriesFit {l m : Link} (h : Link.Reports l m) (hl : l.entriesFit) : m.entriesFit := by
  induction h with
  | refl => exact hl
  | post _ stamp body ih => exact ih.post stamp body
  | answer _ e r ih => exact ih.answer e r

theorem serial {l m : Link} (h : Link.Reports l m) : m.serial = l.serial := by
  induction h with
  | refl => rfl
  | post _ _ _ ih => simpa using ih
  | answer _ _ _ ih => simpa using ih

theorem entriesHeld {l m : Link} (h : Link.Reports l m) : m.entriesHeld = l.entriesHeld := by
  induction h with
  | refl => rfl
  | post _ _ _ ih => simpa using ih
  | answer _ _ _ ih => simpa using ih

theorem configured {l m : Link} (h : Link.Reports l m) : m.configured = l.configured := by
  induction h with
  | refl => rfl
  | post _ _ _ ih => simpa using ih
  | answer _ _ _ ih => simpa using ih

theorem paused {l m : Link} (h : Link.Reports l m) : m.paused = l.paused := by
  induction h with
  | refl => rfl
  | post _ _ _ ih => simpa using ih
  | answer _ _ _ ih => simpa using ih

theorem mark {l m : Link} (h : Link.Reports l m) : m.mark = l.mark := by
  induction h with
  | refl => rfl
  | post _ _ _ ih => simpa using ih
  | answer _ _ _ ih => simpa using ih

/-- No entry comes to be held by a command in progress. -/
theorem held {l m : Link} (h : Link.Reports l m) : ∀ e ∈ m.held, e ∈ l.held := by
  induction h with
  | refl => exact fun _ h => h
  | post _ _ _ ih => simpa using ih
  | @answer l' _ e r ih =>
    obtain ⟨_, eq⟩ | ⟨_, eq⟩ := Link.answer_cases l' e r
    · rw [eq]; exact fun x hx => ih x (List.mem_of_mem_erase hx)
    · rw [eq]; exact ih

/-- Replies only join the reply queue, at its end. -/
theorem replies {l m : Link} (h : Link.Reports l m) : ∃ more, m.replies = l.replies ++ more := by
  induction h with
  | refl => exact ⟨[], by simp⟩
  | post _ _ _ ih => simpa using ih
  | @answer l' _ e r ih =>
    obtain ⟨more, hm⟩ := ih
    obtain ⟨_, eq⟩ | ⟨_, eq⟩ := Link.answer_cases l' e r
    · exact ⟨more ++ [r], by rw [eq]; simp [hm]⟩
    · exact ⟨more, by rw [eq]; exact hm⟩

end Link.Reports

/-! ### A command answered at once -/

/-- A handler that replies at once: the reply joins the queue of the hub the handler left. -/
theorem Hub.command_of_ready {h : Hub} (hr : h.Ready) (code : Byte) (f : Handler) (tag : Tag) (body : List Byte) :
    h.command code f tag body = h.runCommand code f tag body := by
  unfold Hub.command
  rw [if_pos hr.takes, if_pos hr.free]

theorem Hub.runCommand_reply {h h' : Hub} {code : Byte} {f : Handler} {tag : Tag} {body : List Byte} {st : Status} {fields : List Byte}
    (e : f (h.withLink h.link.takeEntry) ⟨tag, h.link.serial⟩ body = (h', .reply st fields)) :
    h.runCommand code f tag body = h'.answer h.link.serial ⟨code, tag, st, fields⟩ := by
  unfold Hub.runCommand; rw [e]

/-- A handler that leaves the link alone apart from its entry: the command answered at once is the handler's effect with the reply
queued. -/
theorem Hub.command_reply {h h' : Hub} (hr : h.Ready) {code : Byte} {f : Handler} {tag : Tag} {body : List Byte} {st : Status}
    {fields : List Byte}
    (e : f (h.withLink h.link.takeEntry) ⟨tag, h.link.serial⟩ body = (h'.withLink h.link.takeEntry, .reply st fields))
    (hl : h'.link = h.link) : h.command code f tag body = h'.replied ⟨code, tag, st, fields⟩ := by
  rw [Hub.command_of_ready hr, Hub.runCommand_reply e]
  unfold Hub.answer Hub.replied
  rw [hl, Hub.withLink_link, Link.takeEntry_answer _ _ hr.fresh, Hub.withLink_withLink]

end Sys2Proof.Machine
end

