-- ==== Sys2Proof/Laws/Dispatch.lean ====
section
/-! SUPPORT. What dispatch does to a handler's answer: a ready command whose handler answers at once leaves the handler's hub with the
reply waiting, whatever entry it held meanwhile. -/

namespace Sys2Proof.Machine

/-- Posting a notice and taking a reply entry do not see each other. -/
theorem Link.post_takeEntry (l : Link) (st : Nat) (b : NoticeBody) : l.takeEntry.post st b = (l.post st b).takeEntry := by
  rw [Link.post_frame l l.takeEntry st b rfl rfl]
  obtain ⟨q, c, e⟩ := Link.post_only l st b
  rw [e]
  rfl

/-- Notices depend only on the notices and the LOST flag that wait. -/
theorem Link.post_notices_eq (l m : Link) (st : Nat) (b : NoticeBody) (hn : m.notices = l.notices) (hl : m.lost = l.lost) :
    (m.post st b).notices = (l.post st b).notices := by
  rw [Link.post_frame l m st b hn hl]

/-- A ready command whose handler, run with the entry held, answers at once on a hub `g` with that entry held. -/
theorem Hub.command_effect {h g : Hub} (hr : h.Ready) {code : Byte} {f : Handler} {tag : Tag} {body : List Byte} {st : Status}
    {fields : List Byte}
    (e : f (h.withLink h.link.takeEntry) ⟨tag, h.link.serial⟩ body = (g.withLink g.link.takeEntry, .reply st fields))
    (hs : g.link.serial = h.link.serial) (hh : g.link.held = h.link.held) :
    h.command code f tag body = g.replied ⟨code, tag, st, fields⟩ := by
  rw [Hub.command_of_ready hr, Hub.runCommand_reply e]
  unfold Hub.answer Hub.replied
  have : g.link.serial ∉ g.link.held := by
    rw [hs, hh]
    exact hr.fresh
  rw [← hs, Hub.withLink_link, Link.takeEntry_answer _ _ this, Hub.withLink_withLink]

/-- The same for the outcome of a command row. -/
theorem State.onHub_answered {s : State} {g : Hub} {code : Byte} {f : Handler} {tag : Tag} {body : List Byte} (hr : s.hub.Ready)
    (st : Status) (fields : List Byte)
    (e : f (s.hub.withLink s.hub.link.takeEntry) ⟨tag, s.hub.link.serial⟩ body = (g.withLink g.link.takeEntry, .reply st fields))
    (hs : g.link.serial = s.hub.link.serial) (hh : g.link.held = s.hub.link.held) :
    s.onHub (fun h => h.command code f tag body) = s.answered g code tag st fields := by
  unfold State.onHub State.answered State.becomes
  simp only [Hub.command_effect hr e hs hh]

/-- An event of a part that is out of reset. -/
theorem State.onLive_becomes {s : State} (hr : s.hub.resetN = true) (f : Hub → Hub) : s.onLive f = s.becomes (f s.hub) := by
  unfold State.onLive State.onHub State.becomes
  simp [hr]

end Sys2Proof.Machine
end

