-- ==== Sys2Proof/Laws/Boundary.lean ====
section
/-! SUPPORT. The stages of a frame boundary at which no cue is due, each with the blocks it may touch. -/

namespace Sys2Proof.Machine

/-- With no cue due at p the boundary fires none. -/
theorem Hub.fireDue_none (h : Hub) (p : Nat) (hd : ∀ e ∈ h.cues, e.due ≠ p) : h.fireDue p = h := by
  unfold Hub.fireDue
  have : h.cues.filter (fun e => decide (e.due = p)) = [] := by
    rw [List.filter_eq_nil_iff]
    exact fun e he => by simpa using hd e he
  rw [this]
  rfl

/-- After the ports' first share. -/
def Hub.stage1 (h : Hub) (w : List (List SlotWord)) : Hub := h.advanceN.portsBegin h.clock.n w
/-- After the clock outputs. -/
def Hub.stage2 (h : Hub) (m : Nat) (w : List (List SlotWord)) : Hub := (h.stage1 w).outputsAtBoundary m
/-- After the meters' period end. -/
def Hub.stage3 (h : Hub) (m : Nat) (w : List (List SlotWord)) : Hub := (h.stage2 m w).metersPeriodEnd h.clock.n
/-- After the tally units. -/
def Hub.stage4 (h : Hub) (m : Nat) (w : List (List SlotWord)) : Hub := (h.stage3 m w).talliesAtBoundary h.clock.n
/-- After playout. -/
def Hub.stage5 (h : Hub) (m : Nat) (w : List (List SlotWord)) : Hub := (h.stage4 m w).settlePlay h.clock.n
/-- After capture. -/
def Hub.stage6 (h : Hub) (m : Nat) (w : List (List SlotWord)) : Hub := (h.stage5 m w).captureWrite h.clock.n
/-- After the ports have begun their wire frames. -/
def Hub.stage7 (h : Hub) (m : Nat) (w : List (List SlotWord)) : Hub := (h.stage6 m w).portsShiftOut
/-- After the meters' samples. -/
def Hub.stage8 (h : Hub) (m : Nat) (w : List (List SlotWord)) : Hub := (h.stage7 m w).metersSample h.clock.n

theorem Hub.stage1_within (h : Hub) (w : List (List SlotWord)) : Hub.Within [.ports, .link] h.advanceN (h.stage1 w) :=
  Hub.Within.portsBegin (by decide) (by decide) (Hub.Within.rfl' _ _) _ w

theorem Hub.stage2_within (h : Hub) (m : Nat) (w : List (List SlotWord)) : Hub.Within [.outputs] (h.stage1 w) (h.stage2 m w) :=
  Hub.Within.outputsAtBoundary (by decide) (Hub.Within.rfl' _ _) _

theorem Hub.stage3_within (h : Hub) (m : Nat) (w : List (List SlotWord)) :
    Hub.Within [.meters, .surface, .engine, .link] (h.stage2 m w) (h.stage3 m w) :=
  Hub.Within.metersPeriodEnd (by decide) (by decide) (by decide) (by decide) (Hub.Within.rfl' _ _) _

theorem Hub.stage4_within (h : Hub) (m : Nat) (w : List (List SlotWord)) : Hub.Within [.tallies] (h.stage3 m w) (h.stage4 m w) :=
  Hub.Within.talliesAtBoundary (by decide) (Hub.Within.rfl' _ _) _

theorem Hub.stage5_within (h : Hub) (m : Nat) (w : List (List SlotWord)) : Hub.Within [.engine, .link] (h.stage4 m w) (h.stage5 m w) :=
  Hub.Within.settlePlay (by decide) (by decide) (Hub.Within.rfl' _ _) _

theorem Hub.stage6_within (h : Hub) (m : Nat) (w : List (List SlotWord)) : Hub.Within [.engine, .link] (h.stage5 m w) (h.stage6 m w) :=
  Hub.Within.captureWrite (by decide) (by decide) (Hub.Within.rfl' _ _) _

theorem Hub.stage7_within (h : Hub) (m : Nat) (w : List (List SlotWord)) : Hub.Within [.ports] (h.stage6 m w) (h.stage7 m w) :=
  Hub.Within.portsShiftOut (by decide) (Hub.Within.rfl' _ _)

theorem Hub.stage8_within (h : Hub) (m : Nat) (w : List (List SlotWord)) : Hub.Within [.meters, .link] (h.stage7 m w) (h.stage8 m w) :=
  Hub.Within.metersSample (by decide) (by decide) (Hub.Within.rfl' _ _) _

/-- A boundary with no cue due is its eight stages, and one free value drawn. -/
theorem Hub.frameBoundary_stages (h : Hub) (hs : h.clock.switching = false) (hd : h.noCueDue) (m : Nat) (w : List (List SlotWord)) :
    h.frameBoundary m w = (h.stage8 m w).drawn := by
  have e1 : (h.stage1 w).cues = h.cues := (h.stage1_within w).cues (by decide)
  have e2 : (h.stage1 w).fireDue h.clock.n = h.stage1 w :=
    Hub.fireDue_none _ _ (by
      rw [e1]
      exact hd)
  unfold Hub.frameBoundary
  rw [if_neg (by simp [hs])]
  unfold Hub.boundaryWork
  simp only [Hub.stage1] at e2
  simp only [e2]
  rfl

theorem exec_frameBoundary {s : State} (hf : s.hub.framesRun) (m : Nat) (w : List (List SlotWord)) :
    exec (.frameBoundary m w) s = s.becomes (s.hub.frameBoundary m w) := State.onLive_becomes hf.1 (fun h => h.frameBoundary m w)

/-- The tally units after a boundary with no cue due. -/
theorem Hub.stage8_tallies (h : Hub) (m : Nat) (w : List (List SlotWord)) :
    (h.stage8 m w).tallies = h.tallies.map (fun t => t.atBoundary h.clock.n) := by
  rw [(h.stage8_within m w).tallies (by decide), (h.stage7_within m w).tallies (by decide), (h.stage6_within m w).tallies (by decide),
    (h.stage5_within m w).tallies (by decide)]
  show ((h.stage3 m w).tallies).map _ = _
  rw [(h.stage3_within m w).tallies (by decide), (h.stage2_within m w).tallies (by decide), (h.stage1_within w).tallies (by decide)]
  rfl

theorem Hub.stage1_clock (h : Hub) (w : List (List SlotWord)) : (h.stage1 w).clock = { h.clock with n := h.clock.n + 1 } :=
  (h.stage1_within w).clock (by decide)

/-- The clock outputs after a boundary with no cue due. -/
theorem Hub.stage8_outputs (h : Hub) (m : Nat) (w : List (List SlotWord)) :
    (h.stage8 m w).outputs = (h.outputsAtBoundary m).outputs := by
  rw [(h.stage8_within m w).outputs (by decide), (h.stage7_within m w).outputs (by decide), (h.stage6_within m w).outputs (by decide),
    (h.stage5_within m w).outputs (by decide), (h.stage4_within m w).outputs (by decide), (h.stage3_within m w).outputs (by decide)]
  unfold Hub.stage2 Hub.outputsAtBoundary
  simp only [Hub.withOutputs_outputs]
  rw [Hub.stage1_clock, (h.stage1_within w).outputs (by decide)]
  rfl

end Sys2Proof.Machine
end

