-- ==== Sys2Proof/Laws/Bytes.lean ====
section
/-! SUPPORT. Numbers written as little-endian bytes read back (R185). -/

namespace Sys2Proof.Machine

@[simp] theorem bytesOf_length : ∀ w n : Nat, (bytesOf w n).length = w
  | 0, _ => rfl
  | w + 1, n => by simp [bytesOf, bytesOf_length w]

@[simp] theorem byteAt_cons_zero (b : Byte) (rest : List Byte) : byteAt (b :: rest) 0 = b.toNat := rfl

@[simp] theorem byteAt_cons_succ (b : Byte) (rest : List Byte) (k : Nat) : byteAt (b :: rest) (k + 1) = byteAt rest k := by
  simp [byteAt]

theorem byteAt_append_right {before rest : List Byte} {k : Nat} : byteAt (before ++ rest) (before.length + k) = byteAt rest k := by
  simp [byteAt, List.getD_eq_getElem?_getD, List.getElem?_append_right (Nat.le_add_right before.length k)]

theorem byteAt_append_left {before rest : List Byte} {k : Nat} (h : k < before.length) : byteAt (before ++ rest) k = byteAt before k := by
  simp [byteAt, List.getD_eq_getElem?_getD, List.getElem?_append_left h]

theorem toNat_oneByte {n : Nat} (h : n < 256) : (oneByte n).toNat = n := by
  simp [oneByte]
  omega

theorem fieldAt_append_right {before rest : List Byte} (w : Nat) : ∀ k : Nat,
    fieldAt (before ++ rest) (before.length + k) w = fieldAt rest k w := by
  induction w with
  | zero => exact fun _ => rfl
  | succ w ih =>
    intro k
    simp only [fieldAt, byteAt_append_right]
    rw [show before.length + k + 1 = before.length + (k + 1) from by omega, ih]

theorem fieldAt_append_left {before rest : List Byte} (w : Nat) : ∀ k : Nat, k + w ≤ before.length →
    fieldAt (before ++ rest) k w = fieldAt before k w := by
  induction w with
  | zero => exact fun _ _ => rfl
  | succ w ih =>
    intro k hk
    simp only [fieldAt]
    rw [byteAt_append_left (by omega), ih (k + 1) (by omega)]

/-- A number below 256^w reads back from its `w` bytes. -/
theorem fieldAt_bytesOf (w : Nat) : ∀ (n : Nat) (rest : List Byte), n < 256 ^ w → fieldAt (bytesOf w n ++ rest) 0 w = n := by
  induction w with
  | zero =>
    intro n rest h
    simp [fieldAt] at *
    omega
  | succ w ih =>
    intro n rest h
    have h' : n / 256 < 256 ^ w := by
      rw [Nat.pow_succ] at h
      omega
    have e : fieldAt (BitVec.ofNat 8 n :: (bytesOf w (n / 256) ++ rest)) 1 w = n / 256 := by
      have := fieldAt_append_right (before := [BitVec.ofNat 8 n]) (rest := bytesOf w (n / 256) ++ rest) w 0
      rw [ih _ _ h'] at this
      exact this
    show byteAt (BitVec.ofNat 8 n :: (bytesOf w (n / 256) ++ rest)) 0 + 256 * fieldAt (BitVec.ofNat 8 n :: (bytesOf w (n / 256) ++ rest)) 1 w = n
    rw [e]
    simp
    omega

theorem fieldAt_bytes {w n off : Nat} {before after : List Byte} (h : n < 256 ^ w) (ho : before.length = off) :
    fieldAt (before ++ bytesOf w n ++ after) off w = n := by
  subst ho
  have := fieldAt_append_right (before := before) (rest := bytesOf w n ++ after) w 0
  rw [fieldAt_bytesOf w n after h] at this
  simpa using this

/-- Reading a number never exceeds its width. -/
theorem fieldAt_lt (body : List Byte) (w : Nat) : ∀ off : Nat, fieldAt body off w < 256 ^ w := by
  induction w with
  | zero => simp [fieldAt]
  | succ w ih =>
    intro off
    have := ih (off + 1)
    have hb : byteAt body off < 256 := (body.getD off 0).isLt
    simp only [fieldAt]
    rw [Nat.pow_succ]
    omega

end Sys2Proof.Machine
end

