-- ==== Sys2Proof/Laws/PerInstr.lean ====
section
/-! SUPPORT. The family RowCode, one lemma for each command: a row that is a command of the computer is the row that its code selects, and an
event is selected by no code of the command table. -/

namespace Sys2Proof.Laws

open Sys2Proof.Machine

/-- The message of a command of the computer: code, tag and body. An event, and a command whose code names no command, has none. -/
def messageOf : Instr → Option (Byte × Tag × List Byte)
  | .powerOnReset => none
  | .resetNRelease => none
  | .frameBoundary .. => none
  | .crystalSwitchDone => none
  | .wckiEdge .. => none
  | .rateMeasurementComplete .. => none
  | .acquireLock .. => none
  | .referenceTimeout => none
  | .acquireTimeout => none
  | .linkCorrectionRecord .. => none
  | .linkReferenceReturn .. => none
  | .startOfFrame .. => none
  | .setClock tag body => some (0x01, tag, body)
  | .getClock tag body => some (0x02, tag, body)
  | .setClockOutput tag body => some (0x10, tag, body)
  | .clockOutputStart .. => none
  | .clockOutputPeriodEnd .. => none
  | .getOutputs tag body => some (0x11, tag, body)
  | .setTally tag body => some (0x12, tag, body)
  | .runTally tag body => some (0x13, tag, body)
  | .stopTally tag body => some (0x14, tag, body)
  | .defineStream tag body => some (0x20, tag, body)
  | .armStream tag body => some (0x21, tag, body)
  | .triggerStream tag body => some (0x22, tag, body)
  | .stopStream tag body => some (0x23, tag, body)
  | .deleteStream tag body => some (0x24, tag, body)
  | .getStream tag body => some (0x25, tag, body)
  | .getPool tag body => some (0x26, tag, body)
  | .playBlock .. => none
  | .postCue tag body => some (0x30, tag, body)
  | .cancelCue tag body => some (0x31, tag, body)
  | .listCues tag body => some (0x32, tag, body)
  | .flushCues tag body => some (0x33, tag, body)
  | .configurePort tag body => some (0x40, tag, body)
  | .setInitList tag body => some (0x41, tag, body)
  | .startPort tag body => some (0x42, tag, body)
  | .stopPort tag body => some (0x43, tag, body)
  | .getPort tag body => some (0x44, tag, body)
  | .portSettled .. => none
  | .converterXfer tag body => some (0x48, tag, body)
  | .abortXfer tag body => some (0x49, tag, body)
  | .getControlBus tag body => some (0x4A, tag, body)
  | .transactionEnd .. => none
  | .markedJobEnd _ => none
  | .busStuck _ => none
  | .busRecoveryEnd .. => none
  | .busReleaseEnd _ => none
  | .roundStart => none
  | .visitStart => none
  | .reportReceived => none
  | .answerTimeout => none
  | .resetExchangeEnd .. => none
  | .writeExchangeEnd .. => none
  | .pollExchangeEnd .. => none
  | .probeEnd .. => none
  | .resetVisitEnd .. => none
  | .setNode tag body => some (0x50, tag, body)
  | .resetNode tag body => some (0x51, tag, body)
  | .surfaceWrite tag body => some (0x52, tag, body)
  | .getNode tag body => some (0x53, tag, body)
  | .setBinding tag body => some (0x58, tag, body)
  | .clearBinding tag body => some (0x59, tag, body)
  | .listBindings tag body => some (0x5A, tag, body)
  | .setMeter tag body => some (0x60, tag, body)
  | .setMeterDisplay tag body => some (0x61, tag, body)
  | .readMeters tag body => some (0x62, tag, body)
  | .clearMeters tag body => some (0x63, tag, body)
  | .outPacket .. => none
  | .unknownCommand .. => none
  | .dispatchResume => none
  | .transmitTake => none
  | .messageSent => none
  | .describe tag body => some (0x70, tag, body)
  | .resetPart tag body => some (0x71, tag, body)
  | .linkReset .. => none
  | .configuration => none
  | .resume => none

/-- R186: the code of a command's message selects its row; no code of the command table selects any other row. -/
def RowCode.Statement (i : Instr) : Prop :=
  match messageOf i with
  | some (code, tag, body) => commandRow code tag body = i ∧ (shapeOf code.toNat).isSome = true
  | none => ∀ code tag body, (shapeOf code.toNat).isSome = true → commandRow code tag body ≠ i

/-- What a code of the command table selects has a message. -/
theorem messageOf_commandRow (code : Byte) (tag : Tag) (body : List Byte) (h : (shapeOf code.toNat).isSome = true) :
    (messageOf (commandRow code tag body)).isSome = true := by
  unfold commandRow
  split
  all_goals first
    | rfl
    | skip
  rename_i h1
  revert h
  unfold shapeOf
  split <;> first | contradiction | simp

/-- A row without a message is selected by no code. -/
theorem RowCode.event (i : Instr) (h : messageOf i = none) : RowCode.Statement i := by
  unfold RowCode.Statement
  rw [h]
  intro code tag body hs e
  have := messageOf_commandRow code tag body hs
  rw [e, h] at this
  exact absurd this (by decide)

theorem RowCode.powerOnReset : RowCode.Statement .powerOnReset := RowCode.event _ rfl
theorem RowCode.resetNRelease : RowCode.Statement .resetNRelease := RowCode.event _ rfl
theorem RowCode.frameBoundary (mCycles : Nat) (wire : List (List SlotWord)) : RowCode.Statement (.frameBoundary mCycles wire) := RowCode.event _ rfl
theorem RowCode.crystalSwitchDone : RowCode.Statement .crystalSwitchDone := RowCode.event _ rfl
theorem RowCode.wckiEdge (phase : Ratio) (cycles : Nat) : RowCode.Statement (.wckiEdge phase cycles) := RowCode.event _ rfl
theorem RowCode.rateMeasurementComplete (phase : Ratio) (cycles : Nat) : RowCode.Statement (.rateMeasurementComplete phase cycles) := RowCode.event _ rfl
theorem RowCode.acquireLock (ev : RefEvent) : RowCode.Statement (.acquireLock ev) := RowCode.event _ rfl
theorem RowCode.referenceTimeout : RowCode.Statement .referenceTimeout := RowCode.event _ rfl
theorem RowCode.acquireTimeout : RowCode.Statement .acquireTimeout := RowCode.event _ rfl
theorem RowCode.linkCorrectionRecord (frame : BitVec 11) (phase : Ratio) : RowCode.Statement (.linkCorrectionRecord frame phase) := RowCode.event _ rfl
theorem RowCode.linkReferenceReturn (frame : BitVec 11) (phase : Ratio) : RowCode.Statement (.linkReferenceReturn frame phase) := RowCode.event _ rfl
theorem RowCode.startOfFrame (frame : BitVec 11) (phase : Ratio) : RowCode.Statement (.startOfFrame frame phase) := RowCode.event _ rfl
theorem RowCode.setClock (tag : Tag) (body : List Byte) : RowCode.Statement (.setClock tag body) := ⟨rfl, rfl⟩
theorem RowCode.getClock (tag : Tag) (body : List Byte) : RowCode.Statement (.getClock tag body) := ⟨rfl, rfl⟩
theorem RowCode.setClockOutput (tag : Tag) (body : List Byte) : RowCode.Statement (.setClockOutput tag body) := ⟨rfl, rfl⟩
theorem RowCode.clockOutputStart (output : Nat) (mCycles : Nat) : RowCode.Statement (.clockOutputStart output mCycles) := RowCode.event _ rfl
theorem RowCode.clockOutputPeriodEnd (output : Nat) (mCycles : Nat) (atFrame : Bool) : RowCode.Statement (.clockOutputPeriodEnd output mCycles atFrame) := RowCode.event _ rfl
theorem RowCode.getOutputs (tag : Tag) (body : List Byte) : RowCode.Statement (.getOutputs tag body) := ⟨rfl, rfl⟩
theorem RowCode.setTally (tag : Tag) (body : List Byte) : RowCode.Statement (.setTally tag body) := ⟨rfl, rfl⟩
theorem RowCode.runTally (tag : Tag) (body : List Byte) : RowCode.Statement (.runTally tag body) := ⟨rfl, rfl⟩
theorem RowCode.stopTally (tag : Tag) (body : List Byte) : RowCode.Statement (.stopTally tag body) := ⟨rfl, rfl⟩
theorem RowCode.defineStream (tag : Tag) (body : List Byte) : RowCode.Statement (.defineStream tag body) := ⟨rfl, rfl⟩
theorem RowCode.armStream (tag : Tag) (body : List Byte) : RowCode.Statement (.armStream tag body) := ⟨rfl, rfl⟩
theorem RowCode.triggerStream (tag : Tag) (body : List Byte) : RowCode.Statement (.triggerStream tag body) := ⟨rfl, rfl⟩
theorem RowCode.stopStream (tag : Tag) (body : List Byte) : RowCode.Statement (.stopStream tag body) := ⟨rfl, rfl⟩
theorem RowCode.deleteStream (tag : Tag) (body : List Byte) : RowCode.Statement (.deleteStream tag body) := ⟨rfl, rfl⟩
theorem RowCode.getStream (tag : Tag) (body : List Byte) : RowCode.Statement (.getStream tag body) := ⟨rfl, rfl⟩
theorem RowCode.getPool (tag : Tag) (body : List Byte) : RowCode.Statement (.getPool tag body) := ⟨rfl, rfl⟩
theorem RowCode.playBlock (body : List Byte) : RowCode.Statement (.playBlock body) := RowCode.event _ rfl
theorem RowCode.postCue (tag : Tag) (body : List Byte) : RowCode.Statement (.postCue tag body) := ⟨rfl, rfl⟩
theorem RowCode.cancelCue (tag : Tag) (body : List Byte) : RowCode.Statement (.cancelCue tag body) := ⟨rfl, rfl⟩
theorem RowCode.listCues (tag : Tag) (body : List Byte) : RowCode.Statement (.listCues tag body) := ⟨rfl, rfl⟩
theorem RowCode.flushCues (tag : Tag) (body : List Byte) : RowCode.Statement (.flushCues tag body) := ⟨rfl, rfl⟩
theorem RowCode.configurePort (tag : Tag) (body : List Byte) : RowCode.Statement (.configurePort tag body) := ⟨rfl, rfl⟩
theorem RowCode.setInitList (tag : Tag) (body : List Byte) : RowCode.Statement (.setInitList tag body) := ⟨rfl, rfl⟩
theorem RowCode.startPort (tag : Tag) (body : List Byte) : RowCode.Statement (.startPort tag body) := ⟨rfl, rfl⟩
theorem RowCode.stopPort (tag : Tag) (body : List Byte) : RowCode.Statement (.stopPort tag body) := ⟨rfl, rfl⟩
theorem RowCode.getPort (tag : Tag) (body : List Byte) : RowCode.Statement (.getPort tag body) := ⟨rfl, rfl⟩
theorem RowCode.portSettled (port : Nat) : RowCode.Statement (.portSettled port) := RowCode.event _ rfl
theorem RowCode.converterXfer (tag : Tag) (body : List Byte) : RowCode.Statement (.converterXfer tag body) := ⟨rfl, rfl⟩
theorem RowCode.abortXfer (tag : Tag) (body : List Byte) : RowCode.Statement (.abortXfer tag body) := ⟨rfl, rfl⟩
theorem RowCode.getControlBus (tag : Tag) (body : List Byte) : RowCode.Statement (.getControlBus tag body) := ⟨rfl, rfl⟩
theorem RowCode.transactionEnd (outcome : TxOutcome) : RowCode.Statement (.transactionEnd outcome) := RowCode.event _ rfl
theorem RowCode.markedJobEnd (progress : Option BusProgress) : RowCode.Statement (.markedJobEnd progress) := RowCode.event _ rfl
theorem RowCode.busStuck (progress : Option BusProgress) : RowCode.Statement (.busStuck progress) := RowCode.event _ rfl
theorem RowCode.busRecoveryEnd (bothHigh : Bool) (pulses : Nat) : RowCode.Statement (.busRecoveryEnd bothHigh pulses) :=
  RowCode.event _ rfl
theorem RowCode.busReleaseEnd (progress : Option BusProgress) : RowCode.Statement (.busReleaseEnd progress) := RowCode.event _ rfl
theorem RowCode.roundStart : RowCode.Statement .roundStart := RowCode.event _ rfl
theorem RowCode.visitStart : RowCode.Statement .visitStart := RowCode.event _ rfl
theorem RowCode.reportReceived : RowCode.Statement .reportReceived := RowCode.event _ rfl
theorem RowCode.answerTimeout : RowCode.Statement .answerTimeout := RowCode.event _ rfl
theorem RowCode.resetExchangeEnd (answer : LineAnswer) : RowCode.Statement (.resetExchangeEnd answer) := RowCode.event _ rfl
theorem RowCode.writeExchangeEnd (answer : LineAnswer) : RowCode.Statement (.writeExchangeEnd answer) := RowCode.event _ rfl
theorem RowCode.pollExchangeEnd (answer : LineAnswer) : RowCode.Statement (.pollExchangeEnd answer) := RowCode.event _ rfl
theorem RowCode.probeEnd (answer : LineAnswer) : RowCode.Statement (.probeEnd answer) := RowCode.event _ rfl
theorem RowCode.resetVisitEnd (answer : LineAnswer) : RowCode.Statement (.resetVisitEnd answer) := RowCode.event _ rfl
theorem RowCode.setNode (tag : Tag) (body : List Byte) : RowCode.Statement (.setNode tag body) := ⟨rfl, rfl⟩
theorem RowCode.resetNode (tag : Tag) (body : List Byte) : RowCode.Statement (.resetNode tag body) := ⟨rfl, rfl⟩
theorem RowCode.surfaceWrite (tag : Tag) (body : List Byte) : RowCode.Statement (.surfaceWrite tag body) := ⟨rfl, rfl⟩
theorem RowCode.getNode (tag : Tag) (body : List Byte) : RowCode.Statement (.getNode tag body) := ⟨rfl, rfl⟩
theorem RowCode.setBinding (tag : Tag) (body : List Byte) : RowCode.Statement (.setBinding tag body) := ⟨rfl, rfl⟩
theorem RowCode.clearBinding (tag : Tag) (body : List Byte) : RowCode.Statement (.clearBinding tag body) := ⟨rfl, rfl⟩
theorem RowCode.listBindings (tag : Tag) (body : List Byte) : RowCode.Statement (.listBindings tag body) := ⟨rfl, rfl⟩
theorem RowCode.setMeter (tag : Tag) (body : List Byte) : RowCode.Statement (.setMeter tag body) := ⟨rfl, rfl⟩
theorem RowCode.setMeterDisplay (tag : Tag) (body : List Byte) : RowCode.Statement (.setMeterDisplay tag body) := ⟨rfl, rfl⟩
theorem RowCode.readMeters (tag : Tag) (body : List Byte) : RowCode.Statement (.readMeters tag body) := ⟨rfl, rfl⟩
theorem RowCode.clearMeters (tag : Tag) (body : List Byte) : RowCode.Statement (.clearMeters tag body) := ⟨rfl, rfl⟩
theorem RowCode.outPacket (bytes : List Byte) : RowCode.Statement (.outPacket bytes) := RowCode.event _ rfl
theorem RowCode.unknownCommand (code : Byte) (tag : Tag) (body : List Byte) : RowCode.Statement (.unknownCommand code tag body) := RowCode.event _ rfl
theorem RowCode.dispatchResume : RowCode.Statement .dispatchResume := RowCode.event _ rfl
theorem RowCode.transmitTake : RowCode.Statement .transmitTake := RowCode.event _ rfl
theorem RowCode.messageSent : RowCode.Statement .messageSent := RowCode.event _ rfl
theorem RowCode.describe (tag : Tag) (body : List Byte) : RowCode.Statement (.describe tag body) := ⟨rfl, rfl⟩
theorem RowCode.resetPart (tag : Tag) (body : List Byte) : RowCode.Statement (.resetPart tag body) := ⟨rfl, rfl⟩
theorem RowCode.linkReset (cause : LinkResetCause) : RowCode.Statement (.linkReset cause) := RowCode.event _ rfl
theorem RowCode.configuration : RowCode.Statement .configuration := RowCode.event _ rfl
theorem RowCode.resume : RowCode.Statement .resume := RowCode.event _ rfl

end Sys2Proof.Laws
end

