-- ==== Sys2Proof/Laws/Pool.lean ====
section
/-! SUPPORT. The laws of the sparse cells, of the sample pool and of the sorted sets: what a read gives after a write, and that every
write keeps the canonical form. -/

namespace Sys2Proof.Machine

/-! ### Cells -/

@[simp] theorem cellGet_nil {α : Type} (a : Nat) : cellGet ([] : List (Nat × α)) a = none := rfl

theorem cellGet_cons {α : Type} (k : Nat) (w : α) (rest : List (Nat × α)) (a : Nat) :
    cellGet ((k, w) :: rest) a = if a = k then some w else cellGet rest a := rfl

theorem cellGet_put {α : Type} (l : List (Nat × α)) (a : Nat) (v : α) (b : Nat) :
    cellGet (cellPut l a v) b = if b = a then some v else cellGet l b := by
  induction l with
  | nil => rfl
  | cons c rest ih =>
    obtain ⟨k, w⟩ := c
    by_cases h1 : a < k
    · simp [cellPut, h1, cellGet_cons]
    · by_cases h2 : a = k
      · subst h2
        simp only [cellPut, h1, cellGet_cons, if_true, if_false]
        split <;> rfl
      · simp only [cellPut, h1, h2, if_false, cellGet_cons, ih]
        by_cases hb : b = k
        · subst hb
          simp [Ne.symm h2]
        · simp [hb]

theorem cellGet_drop {α : Type} (l : List (Nat × α)) (a b : Nat) :
    cellGet (cellDrop l a) b = if b = a then none else cellGet l b := by
  induction l with
  | nil => simp [cellDrop]
  | cons c rest ih =>
    obtain ⟨k, w⟩ := c
    by_cases h : a = k
    · subst h
      simp only [cellDrop, if_true, ih, cellGet_cons]
      split <;> simp_all
    · simp only [cellDrop, h, if_false, cellGet_cons, ih]
      by_cases hb : b = k
      · subst hb
        simp [Ne.symm h]
      · simp [hb]

theorem mem_cellPut {α : Type} {l : List (Nat × α)} {a : Nat} {v : α} {c : Nat × α} (h : c ∈ cellPut l a v) : c = (a, v) ∨ c ∈ l := by
  induction l with
  | nil => simpa [cellPut] using h
  | cons d rest ih =>
    obtain ⟨k, w⟩ := d
    unfold cellPut at h
    split at h
    · simpa using h
    · split at h
      · simp only [List.mem_cons] at h ⊢
        exact h.imp_right .inr
      · simp only [List.mem_cons] at h ⊢
        rcases h with h | h
        · exact .inr (.inl h)
        · exact (ih h).imp_right .inr

theorem mem_cellDrop {α : Type} {l : List (Nat × α)} {a : Nat} {c : Nat × α} (h : c ∈ cellDrop l a) : c ∈ l ∧ c.1 ≠ a := by
  induction l with
  | nil => cases h
  | cons d rest ih =>
    obtain ⟨k, w⟩ := d
    unfold cellDrop at h
    split at h
    · exact ⟨List.mem_cons_of_mem _ (ih h).1, (ih h).2⟩
    · rcases List.mem_cons.1 h with h | h
      · subst h
        exact ⟨List.mem_cons_self .., fun e => by simp_all⟩
      · exact ⟨List.mem_cons_of_mem _ (ih h).1, (ih h).2⟩

theorem cellsRise_cons {α : Type} {k : Nat} {w : α} {rest : List (Nat × α)} :
    cellsRise ((k, w) :: rest) = true ↔ (∀ c ∈ rest, k < c.1) ∧ cellsRise rest = true := by
  simp [cellsRise]

theorem cellsRise_put {α : Type} {l : List (Nat × α)} (a : Nat) (v : α) (h : cellsRise l = true) : cellsRise (cellPut l a v) = true := by
  induction l with
  | nil => rfl
  | cons c rest ih =>
    obtain ⟨k, w⟩ := c
    obtain ⟨hk, hr⟩ := cellsRise_cons.1 h
    by_cases h1 : a < k
    · simp only [cellPut, h1, if_true]
      refine cellsRise_cons.2 ⟨fun c hc => ?_, h⟩
      rcases List.mem_cons.1 hc with hc | hc
      · subst hc
        exact h1
      · exact Nat.lt_trans h1 (hk c hc)
    · by_cases h2 : a = k
      · subst h2
        simp only [cellPut, h1, if_false, if_true]
        exact cellsRise_cons.2 ⟨hk, hr⟩
      · simp only [cellPut, h1, h2, if_false]
        refine cellsRise_cons.2 ⟨fun c hc => ?_, ih hr⟩
        rcases mem_cellPut hc with hc | hc
        · subst hc
          show k < a
          omega
        · exact hk c hc

theorem cellsRise_drop {α : Type} {l : List (Nat × α)} (a : Nat) (h : cellsRise l = true) : cellsRise (cellDrop l a) = true := by
  induction l with
  | nil => rfl
  | cons c rest ih =>
    obtain ⟨k, w⟩ := c
    obtain ⟨hk, hr⟩ := cellsRise_cons.1 h
    unfold cellDrop
    split
    · exact ih hr
    · exact cellsRise_cons.2 ⟨fun c hc => hk c (mem_cellDrop hc).1, ih hr⟩

/-! ### The sample pool -/

/-- A word reads as what was written last. -/
theorem poolRead_write (pool : List (Nat × Sample)) (a : Nat) (v : Sample) (b : Nat) :
    poolRead (poolWrite pool a v) b = if b = a then v else poolRead pool b := by
  unfold poolRead poolWrite
  by_cases hv : v = 0
  · subst hv
    simp only [if_true, cellGet_drop]
    split <;> rfl
  · simp only [hv, if_false, cellGet_put]
    split <;> rfl

/-- A write keeps the canonical form. -/
theorem poolWf_write {pool : List (Nat × Sample)} (a : Nat) (v : Sample) (h : poolWf pool = true) : poolWf (poolWrite pool a v) = true := by
  unfold poolWf at h ⊢
  simp only [Bool.and_eq_true, List.all_eq_true, decide_eq_true_eq] at h ⊢
  unfold poolWrite
  split
  · exact ⟨cellsRise_drop a h.1, fun c hc => h.2 c (mem_cellDrop hc).1⟩
  · rename_i hv
    refine ⟨cellsRise_put a v h.1, fun c hc => ?_⟩
    rcases mem_cellPut hc with hc | hc
    · subst hc
      exact hv
    · exact h.2 c hc

theorem poolWf_reset : poolWf StreamEngine.reset.pool = true := rfl

/-- Something that every step of a `forEach` keeps is kept by the whole. -/
theorem forEach_keeps {σ : Type} {f : σ → Nat → σ} {P : σ → Prop} (hf : ∀ s k, P s → P (f s k)) :
    ∀ (n lo : Nat) (s : σ), P s → P (forEach n lo f s)
  | 0, _, _, h => h
  | n + 1, lo, s, h => forEach_keeps hf n (lo + 1) (f s lo) (hf s lo h)

theorem forEach_succ_last {σ : Type} (f : σ → Nat → σ) : ∀ (n lo : Nat) (s : σ),
    forEach (n + 1) lo f s = f (forEach n lo f s) (lo + n)
  | 0, _, _ => rfl
  | n + 1, lo, s => by
    show forEach (n + 1) (lo + 1) f (f s lo) = _
    rw [forEach_succ_last f n (lo + 1) (f s lo)]
    show f (forEach n (lo + 1) f (f s lo)) (lo + 1 + n) = f (forEach n (lo + 1) f (f s lo)) (lo + (n + 1))
    congr 1
    omega

theorem poolWf_writeFrame {pool : List (Nat × Sample)} (fmt : Format) (body : List Byte) (off word channels : Nat) (h : poolWf pool = true) :
    poolWf (writeFrame fmt body off word channels pool) = true :=
  forEach_keeps (P := fun p => poolWf p = true) (fun _ _ hp => poolWf_write _ _ hp) _ _ _ h

theorem poolWf_placeSamples {pool : List (Nat × Sample)} (st : Stream) (body : List Byte) (p0 lo n : Nat) (h : poolWf pool = true) :
    poolWf (placeSamples st body p0 lo n pool) = true :=
  forEach_keeps (P := fun p => poolWf p = true) (fun _ _ hp => poolWf_writeFrame _ _ _ _ _ hp) _ _ _ h

theorem poolWf_writeCaptured (h : Hub) (map : List PortSlot) : ∀ (word : Nat) (pool : List (Nat × Sample)), poolWf pool = true →
    poolWf (writeCaptured h map word pool) = true := by
  induction map with
  | nil => exact fun _ _ hp => hp
  | cons e rest ih => exact fun word pool hp => ih _ _ (poolWf_write _ _ hp)

/-- What the words hold after a play frame was written: its channels' samples, and everything else as before. -/
theorem poolRead_writeFrame (fmt : Format) (body : List Byte) (off word : Nat) (pool : List (Nat × Sample)) (b : Nat) : ∀ channels : Nat,
    poolRead (writeFrame fmt body off word channels pool) b =
      if word ≤ b ∧ b < word + channels then sampleAt fmt body (off + (b - word) * fmt.width) else poolRead pool b
  | 0 => by
    rw [if_neg (by omega)]
    rfl
  | n + 1 => by
    unfold writeFrame
    rw [forEach_succ_last, poolRead_write]
    have ih := poolRead_writeFrame fmt body off word pool b n
    unfold writeFrame at ih
    rw [ih]
    by_cases h1 : b = word + (0 + n)
    · subst h1
      simp
    · rw [if_neg h1]
      by_cases h2 : word ≤ b ∧ b < word + n
      · rw [if_pos h2, if_pos (by omega)]
      · rw [if_neg h2, if_neg (by omega)]

/-- What the words hold after a captured frame was written. -/
theorem poolRead_writeCaptured (h : Hub) (b : Nat) : ∀ (map : List PortSlot) (word : Nat) (pool : List (Nat × Sample)),
    poolRead (writeCaptured h map word pool) b =
      if hb : word ≤ b ∧ b < word + map.length then h.yieldAt (map[b - word]'(by omega)) else poolRead pool b
  | [], word, pool => by
    rw [dif_neg (by simp)]
    rfl
  | e :: rest, word, pool => by
    show poolRead (writeCaptured h rest (word + 1) (poolWrite pool word (h.yieldAt e))) b = _
    rw [poolRead_writeCaptured h b rest (word + 1), poolRead_write]
    by_cases h1 : word + 1 ≤ b ∧ b < word + 1 + rest.length
    · rw [dif_pos h1, dif_pos (by simp; omega)]
      congr 1
      have : b - word = (b - (word + 1)) + 1 := by omega
      simp [this]
    · rw [dif_neg h1]
      by_cases h2 : b = word
      · subst h2
        rw [if_pos rfl, dif_pos (by simp)]
        simp
      · rw [if_neg h2, dif_neg (by simp; omega)]

/-! ### Sorted sets and numbers -/

theorem mem_insertAsc (l : List Nat) (a b : Nat) : b ∈ insertAsc l a ↔ b = a ∨ b ∈ l := by
  induction l with
  | nil => simp [insertAsc]
  | cons k rest ih =>
    unfold insertAsc
    split
    · simp
    · split
      · rename_i h
        subst h
        simp
      · simp only [List.mem_cons, ih]
        constructor <;> rintro (h | h | h) <;> simp [h]

/-- A number is in the set after it was recorded in or out, or as before. -/
theorem mem_memberSet (l : List Nat) (a b : Nat) (on : Bool) : b ∈ memberSet l a on ↔ if b = a then on = true else b ∈ l := by
  unfold memberSet
  cases on with
  | true =>
    simp only [if_true, mem_insertAsc]
    split <;> simp_all
  | false =>
    simp only [Bool.false_eq_true, if_false, List.mem_filter, decide_eq_true_eq]
    split <;> simp_all

@[simp] theorem numbers_length : ∀ lo n : Nat, (numbers lo n).length = n
  | _, 0 => rfl
  | lo, n + 1 => by simp [numbers, numbers_length (lo + 1) n]

theorem numbers_get : ∀ (lo n k : Nat), k < n → (numbers lo n)[k]? = some (lo + k)
  | _, 0, _, h => absurd h (by omega)
  | _, _ + 1, 0, _ => rfl
  | lo, n + 1, k + 1, h => by
    show (numbers (lo + 1) n)[k]? = _
    rw [numbers_get (lo + 1) n k (by omega)]
    congr 1
    omega

theorem mem_numbers (lo n k : Nat) : k ∈ numbers lo n ↔ lo ≤ k ∧ k < lo + n := by
  induction n generalizing lo with
  | zero => simp [numbers]
  | succ n ih =>
    simp only [numbers, List.mem_cons, ih]
    omega

end Sys2Proof.Machine
end

