-- ==== Sys2Proof/Laws/Wire.lean ====
section
/-! SUPPORT. What goes out on the pins, said once: the control bus at rest, the packets of an IN transfer, the passing of cycles for the
clock outputs. -/

namespace Sys2Proof.Machine

/-! ### The control bus -/

@[simp] theorem settleLast_length (d p : Bool) (l : List BusItem) : (settleLast d p l).length = l.length := by
  induction l with
  | nil => rfl
  | cons i l ih => cases l <;> simp_all [settleLast]

/-- Whatever a transaction comes out as, it goes from a start to a stop condition (R123). -/
theorem Transaction.wire_ends {tx : Transaction} {o : TxOutcome} {l : List BusItem} (h : tx.wire o = some l) :
    ∃ m, l = .start :: m ++ [.stop] := by
  cases o <;> simp only [Transaction.wire, Option.map_eq_some_iff] at h
  · split at h <;> simp at h
    exact ⟨_, h.symm⟩
  all_goals
    obtain ⟨k, -, rfl⟩ := h
    exact ⟨_, rfl⟩

/-- The lines rest released after a stop condition, and after they were released without one (R122). -/
theorem ControlBus.rest_after {b : ControlBus} {m : List BusItem} {i : BusItem} (h : b.lastWire = m ++ [i])
    (hi : i = .stop ∨ i = .released) : b.rest = ⟨false, false⟩ := by
  unfold ControlBus.rest ControlBus.waveform
  rw [h, List.flatMap_append]
  rcases hi with rfl | rfl <;> simp [BusItem.drives]

@[simp] theorem Hub.releaseEnd_release (h : Hub) (l : List BusItem) : (h.releaseEnd l).bus.release = none := by
  unfold Hub.releaseEnd ControlBus.next
  simp only [Hub.withBus]
  split <;> rfl

/-! ### IN transfers (R179) -/

theorem numbers_map_drop (bytes : List Byte) (n lo : Nat) (h : bytes.length ≤ 512 * (lo + n)) :
    ((numbers lo n).map (fun i => (bytes.drop (512 * i)).take 512)).flatten = bytes.drop (512 * lo) := by
  induction n generalizing lo with
  | zero =>
    simp only [numbers, List.map_nil, List.flatten_nil]
    exact (List.drop_eq_nil_of_le (by omega)).symm
  | succ n ih =>
    simp only [numbers, List.map_cons, List.flatten_cons]
    rw [ih (lo + 1) (by omega)]
    have e : bytes.drop (512 * (lo + 1)) = (bytes.drop (512 * lo)).drop 512 := by rw [List.drop_drop, Nat.mul_add]
    rw [e, List.take_append_drop]

/-- The packets of a message, joined, are the message. -/
theorem inPackets_flatten (bytes : List Byte) : (inPackets bytes).flatten = bytes := by
  unfold inPackets
  rw [numbers_map_drop bytes _ 0 (by omega)]
  simp

@[simp] theorem inPackets_length (bytes : List Byte) : (inPackets bytes).length = bytes.length / 512 + 1 := by simp [inPackets]

/-! ### Clock outputs (R19, R20) -/

@[simp] theorem ClockOut.pass_state (o : ClockOut) (m : Nat) : (o.pass m).state = o.state := rfl
@[simp] theorem ClockOut.pass_choice (o : ClockOut) (m : Nat) : (o.pass m).choice = o.choice := rfl
@[simp] theorem ClockOut.pass_inv (o : ClockOut) (m : Nat) : (o.pass m).inv = o.inv := rfl
@[simp] theorem ClockOut.pass_enable (o : ClockOut) (m : Nat) : (o.pass m).enable = o.enable := rfl
@[simp] theorem ClockOut.pass_staged (o : ClockOut) (m : Nat) : (o.pass m).staged = o.staged := rfl
@[simp] theorem ClockOut.pass_period (o : ClockOut) (m : Nat) : (o.pass m).period = o.period := rfl
@[simp] theorem ClockOut.pass_change (o : ClockOut) (m : Nat) : (o.pass m).change = o.change := rfl
@[simp] theorem ClockOut.pass_noWait (o : ClockOut) (m : Nat) : (o.pass m).noWait = o.noWait := rfl
@[simp] theorem ClockOut.pass_heldCycles (o : ClockOut) (m : Nat) : (o.pass m).heldCycles = o.heldCycles + m := rfl
@[simp] theorem ClockOut.pass_elapsed (o : ClockOut) (m : Nat) : (o.pass m).elapsed = o.elapsed + m := rfl
@[simp] theorem OutputUnit.advance_outs (u : OutputUnit) (m : Nat) : (u.advance m).outs = u.outs.map (fun o => o.pass m) := rfl
@[simp] theorem OutputUnit.advance_divider (u : OutputUnit) (m : Nat) : (u.advance m).divider = (u.divider + m) % 16 := rfl
@[simp] theorem OutputUnit.advance_zeroNext (u : OutputUnit) (m : Nat) : (u.advance m).zeroNext = u.zeroNext := rfl
@[simp] theorem OutputUnit.advance_switchPending (u : OutputUnit) (m : Nat) : (u.advance m).switchPending = u.switchPending := rfl
@[simp] theorem OutputUnit.advance_sinceFrame (u : OutputUnit) (m : Nat) :
    (u.advance m).sinceFrame = u.sinceFrame.map (fun f => f + m) := rfl

/-- An output starts exactly when it is STARTING at a period boundary of its choice and the wait is over (R20). -/
theorem ClockOut.tryStart_cases (o : ClockOut) (d : Nat) (f : Bool) (r : Rate) (since : Option Nat) :
    (o.state = .starting ∧ o.choice.atBoundary d f = true ∧ o.waited r since = true ∧
      o.tryStart d f r since = { o with
        state := .running, period := some ⟨o.choice, o.inv⟩, change := .none, elapsed := 0, noWait := false }) ∨
    (¬ (o.state = .starting ∧ o.choice.atBoundary d f = true ∧ o.waited r since = true) ∧ o.tryStart d f r since = o) := by
  unfold ClockOut.tryStart
  split <;> rename_i h
  · exact .inl ⟨h.1, h.2.1, h.2.2, rfl⟩
  · exact .inr ⟨h, rfl⟩

end Sys2Proof.Machine
end

