-- ==== Sys2Proof/WellFormed.lean ====
section
/-! DEFINITION. Which commands can reach the block: the lengths and numbers its links, pins and lines can carry. A command that is not
well-formed still has a meaning; no sender of the part can produce it. -/

namespace Sys2Proof

/-- A body of an inbound message is at most 16,400 bytes (R174). -/
def bodyFits (body : List Byte) : Bool := decide (body.length ≤ Config.maxBody)

/-- A phase is a ratio with a nonzero denominator. -/
def phaseFits (p : Ratio) : Bool := decide (0 < p.den)

/-- The wire holds eight slots for each of the six ports (R110). -/
def wireFits (wire : List (List SlotWord)) : Bool :=
  decide (wire.length = Config.nPorts) && wire.all (fun w => decide (w.length = Config.nSlots))

/-- An answer's characters: the longest packet is 69 characters, and babble is cut off within 1 ms, 100 characters (R135, R136). -/
def answerFits (a : LineAnswer) : Bool := decide (a.chars.length ≤ 100)

/-- A transaction reads at most 16 bytes, and a data byte's index is below 16 (R123). -/
def outcomeFits : TxOutcome → Bool
  | .done read => decide (read.length ≤ 16)
  | .noAckAddress _ => true
  | .noAckData i => decide (i < 16)

def refEventFits : RefEvent → Bool
  | .wcki phase _ => phaseFits phase
  | .sof _ phase => phaseFits phase

/-- A transaction has at most 20 bytes and repeated starts, and a byte broken off shows at most eight bits and its acknowledge slot (R122, R123). -/
def progressFits (p : Option BusProgress) : Bool :=
  p.all (fun p => decide (p.items ≤ 20) && decide (p.read.length ≤ 16) && decide (p.bits ≤ 9))

/-- A command the part's senders can produce. -/
def WellFormed : Instr → Bool
  | .powerOnReset => true
  | .resetNRelease => true
  | .frameBoundary _ wire => wireFits wire
  | .crystalSwitchDone => true
  | .wckiEdge phase _ => phaseFits phase
  | .rateMeasurementComplete phase _ => phaseFits phase
  | .acquireLock ev => refEventFits ev
  | .referenceTimeout => true
  | .acquireTimeout => true
  | .linkCorrectionRecord _ phase => phaseFits phase
  | .linkReferenceReturn _ phase => phaseFits phase
  | .startOfFrame _ phase => phaseFits phase
  | .setClock _ body => bodyFits body
  | .getClock _ body => bodyFits body
  | .setClockOutput _ body => bodyFits body
  | .clockOutputStart output _ => decide (output < Config.nOutputs)
  | .clockOutputPeriodEnd output _ _ => decide (output < Config.nOutputs)
  | .getOutputs _ body => bodyFits body
  | .setTally _ body => bodyFits body
  | .runTally _ body => bodyFits body
  | .stopTally _ body => bodyFits body
  | .defineStream _ body => bodyFits body
  | .armStream _ body => bodyFits body
  | .triggerStream _ body => bodyFits body
  | .stopStream _ body => bodyFits body
  | .deleteStream _ body => bodyFits body
  | .getStream _ body => bodyFits body
  | .getPool _ body => bodyFits body
  | .playBlock body => bodyFits body
  | .postCue _ body => bodyFits body
  | .cancelCue _ body => bodyFits body
  | .listCues _ body => bodyFits body
  | .flushCues _ body => bodyFits body
  | .configurePort _ body => bodyFits body
  | .setInitList _ body => bodyFits body
  | .startPort _ body => bodyFits body
  | .stopPort _ body => bodyFits body
  | .getPort _ body => bodyFits body
  | .portSettled port => decide (port < Config.nPorts)
  | .converterXfer _ body => bodyFits body
  | .abortXfer _ body => bodyFits body
  | .getControlBus _ body => bodyFits body
  | .transactionEnd outcome => outcomeFits outcome
  | .markedJobEnd progress => progressFits progress
  | .busStuck progress => progressFits progress
  | .busRecoveryEnd _ pulses => decide (pulses ≤ 9)
  | .busReleaseEnd progress => progressFits progress
  | .roundStart => true
  | .visitStart => true
  | .reportReceived => true
  | .answerTimeout => true
  | .resetExchangeEnd answer => answerFits answer
  | .writeExchangeEnd answer => answerFits answer
  | .pollExchangeEnd answer => answerFits answer
  | .probeEnd answer => answerFits answer
  | .resetVisitEnd answer => answerFits answer
  | .setNode _ body => bodyFits body
  | .resetNode _ body => bodyFits body
  | .surfaceWrite _ body => bodyFits body
  | .getNode _ body => bodyFits body
  | .setBinding _ body => bodyFits body
  | .clearBinding _ body => bodyFits body
  | .listBindings _ body => bodyFits body
  | .setMeter _ body => bodyFits body
  | .setMeterDisplay _ body => bodyFits body
  | .readMeters _ body => bodyFits body
  | .clearMeters _ body => bodyFits body
  | .outPacket bytes => decide (bytes.length ≤ 512)
  | .unknownCommand _ _ body => bodyFits body
  | .dispatchResume => true
  | .transmitTake => true
  | .messageSent => true
  | .describe _ body => bodyFits body
  | .resetPart _ body => bodyFits body
  | .linkReset _ => true
  | .configuration => true
  | .resume => true

end Sys2Proof
end

