-- ==== Sys2Proof/Tests/Slice0.lean ====
section
/-! SUPPORT. Small tests, each of one step on a small state with an expected value from the manual's tables and worked cases or from hand
calculation, and a witness for the hypotheses of every obligation that has any: `witness_…` shows a state and operands that meet them
together. -/

namespace Sys2Proof.Tests

open Sys2Proof.Machine

set_option Elab.async false

/-! ### Helpers -/

/-- A part out of reset, on a configured link. -/
def up : Hub := { Hub.reset with resetN := true, link := { Link.reset with configured := true } }

/-- The hub after a command. -/
def run (c : Instr) (h : Hub) : Hub :=
  match exec c ⟨h, []⟩ with
  | .next t => t.hub
  | .fault _ => h
  | .refused _ => h

/-- The replies waiting after a command: status and result fields. -/
def answers (c : Instr) (h : Hub) : List (Status × List Byte) := (run c h).link.replies.map (fun r => (r.status, r.fields))

/-- The notices waiting after a command. -/
def told (c : Instr) (h : Hub) : List Notice := (run c h).link.notices

/-- N stands at n. -/
def atN (n : Nat) (h : Hub) : Hub := h.withClock { h.clock with n := n }

def clocked (src : Source) (st : ClockState) (run : Nat) (matched : Bool) (m : Option Measurement) (h : Hub) : Hub :=
  h.withClock { h.clock with
    source := src, state := st, lockRun := run, matched := matched, measurement := m, timer := if st = .acquiring then some 0 else none }

def withPlay (st : Stream) (h : Hub) : Hub := h.putStream 0 st

def dPlay : Descriptor :=
  { direction := .play, map := [⟨0, 0⟩, ⟨0, 1⟩], format := .s16, capacity := 256, block := none, fill := some .silence,
    run := .continuous, preRoll := none, watch := none, reload := 3 }

def dCapture : Descriptor :=
  { direction := .capture, map := [⟨1, 0⟩], format := .s24, capacity := 4096, block := some 512, fill := none,
    run := .continuous, preRoll := some 2000, watch := none, reload := 3 }

/-- A PLAY stream that runs from position 0. -/
def playing : Stream := { Stream.defined dPlay 0 1 with state := .running, arm := some 0, start := some 0 }

/-- A CAPTURE stream that was armed at `a`. -/
def capturing (a : Nat) : Stream := { Stream.defined dCapture 1 4 with state := .armed, arm := some a, ringLow := a, ringHigh := a }

/-- Ports 0 (PLAYBACK) and 1 (CAPTURE) run with two slots each. -/
def withPorts (h : Hub) : Hub :=
  (h.putPort 0 { Port.reset with role := .playback, state := .running, clocked := true }).putPort 1
    { Port.reset with role := .capture, state := .running, clocked := true }

/-- Ports 0 and 1 have roles and are OFF. -/
def roles (h : Hub) : Hub := (h.putPort 0 { Port.reset with role := .playback }).putPort 1 { Port.reset with role := .capture }

def onlineNode : Node := { Node.reset with state := .online, touched := [5], pressed := [7] }

/-- Node 3 is `n`, and the part awaits its answer in an exchange of a kind. -/
def awaiting (k : ExchangeKind) (n : Node) (h : Hub) : Hub :=
  (h.putNode 3 n).withSurface { (h.putNode 3 n).surface with
    cursor := 4
    exchange := some { node := 3, kind := k, discarded := false, forCommand := false, stamp := some 40 } }

/-- A round has begun, and node 16 alone is to be visited. -/
def round (n : Node) : Hub := (up.putNode 16 n).withSurface { (up.putNode 16 n).surface with cursor := 1 }

/-- A facet of every defined stream, read off the table. -/
theorem streams_all {h : Hub} {P : Stream → Prop} [DecidablePred P]
    (a : (h.engine.streams.all (fun o => match o with
      | none => true
      | some st => decide (P st))) = true) : ∀ st, some st ∈ h.engine.streams → P st := by
  intro st hm
  have := List.all_eq_true.1 a _ hm
  simpa using this

theorem stream_mem {h : Hub} {i : Nat} {st : Stream} (hs : h.stream i = some st) : some st ∈ h.engine.streams := by
  unfold Hub.stream at hs
  cases ho : h.engine.streams[i]? with
  | none => simp [ho] at hs
  | some o =>
    simp [ho] at hs
    subst hs
    exact List.mem_of_getElem? ho

theorem stream_none {h : Hub} {i : Nat} (hl : h.engine.streams.length = 16) (hd : ∀ j, j < 16 → j ≠ i → h.stream j = none) :
    ∀ j, j ≠ i → h.stream j = none := by
  intro j hj
  by_cases hk : j < 16
  · exact hd j hk hj
  · unfold Hub.stream
    simp [List.getElem?_eq_none (l := h.engine.streams) (i := j) (by omega)]

/-! ### WellFormed refuses what no sender can produce -/

theorem test_wf_body : WellFormed (.setClock 0 (List.replicate 16401 0)) = false := by decide +kernel
theorem test_wf_phase : WellFormed (.wckiEdge ⟨0, 0⟩ 512) = false := by decide +kernel
theorem test_wf_sof_phase : WellFormed (.startOfFrame 5 ⟨1, 0⟩) = false := by decide +kernel
theorem test_wf_reference_phase : WellFormed (.acquireLock (.sof 5 ⟨1, 0⟩)) = false := by decide +kernel
theorem test_wf_wire_ports : WellFormed (.frameBoundary 512 []) = false := by decide +kernel
theorem test_wf_wire_slots : WellFormed (.frameBoundary 512 (List.replicate 6 [0, 0])) = false := by decide +kernel
theorem test_wf_output : WellFormed (.clockOutputStart 4 0) = false := by decide +kernel
theorem test_wf_period_output : WellFormed (.clockOutputPeriodEnd 4 0 false) = false := by decide +kernel
theorem test_wf_port : WellFormed (.portSettled 6) = false := by decide +kernel
theorem test_wf_read_length : WellFormed (.transactionEnd (.done (List.replicate 17 0))) = false := by decide +kernel
theorem test_wf_byte_index : WellFormed (.transactionEnd (.noAckData 16)) = false := by decide +kernel
theorem test_wf_answer : WellFormed (.probeEnd (cleanAnswer (List.replicate 101 0))) = false := by decide +kernel
theorem test_wf_packet : WellFormed (.outPacket (List.replicate 513 0)) = false := by decide +kernel

/-! ### Words -/

/-- The table gives no row any bits. -/
theorem test_decode_none : decodeTableWord 8 1 = none := by decide +kernel
theorem test_fetch_unchanged : State.reset.withFetchWord 16 0x1234 = State.reset := by decide +kernel

/-! ### Resets and the queue -/

theorem test_step_idle : step State.reset = .next State.reset := rfl

/-- While RESET_N is low a command is not taken (R183). -/
theorem test_reset_low : (run (.setClock 7 [0, 3]) Hub.reset).clock.rate = .r48 := by decide +kernel
theorem test_reset_release : (run .resetNRelease Hub.reset).resetN = true := by decide +kernel
theorem test_power_on : run .powerOnReset (atN 99 (withPorts up)) = Hub.reset := by decide +kernel

/-- RESET_PART keeps the mark and answers with its own tag (R183). -/
theorem test_reset_part : (run (.resetPart 0x0102 []) (atN 99 (withPorts up))).link.replies = [⟨0x71, 0x0102, .ok, []⟩] := by decide +kernel
theorem test_reset_part_n : (run (.resetPart 0 []) (atN 99 up)).clock.n = 0 := by decide +kernel
theorem test_configuration : (run .configuration (run .resetNRelease Hub.reset)).link.configured = true := by decide +kernel
theorem test_suspend_resume : (run .resume (run (.linkReset .suspend) up)).link.configured = true := by decide +kernel
theorem test_bus_reset_resume : (run .resume (run (.linkReset .busReset) up)).link.configured = false := by decide +kernel

/-! ### Media Clock -/

/-- 256 edges and 131,072 XB cycles are 48 kHz (R6: 256 × 24,576,000 / 48,000). -/
theorem test_detect_48 : detectRate 131072 = some .r48 := by decide +kernel
theorem test_detect_44 : detectRate 142663 = some .r44 := by decide +kernel
/-- 0.5 % of 131,072 is 655.36: a count 656 away is in no window. -/
theorem test_detect_edge : (detectRate 131727, detectRate 131728) = (some .r48, none) := by decide +kernel
theorem test_within_bound : (withinBound ⟨1, 64⟩, withinBound ⟨-1, 64⟩, withinBound ⟨11, 700⟩, withinBound ⟨1, 63⟩) =
    (true, true, false, false) := by decide +kernel

theorem test_set_clock_busy : answers (.setClock 0 [0, 3]) (withPorts up) = [(.busy, [])] := by decide +kernel
theorem test_set_clock_code : answers (.setClock 0 [3, 0]) up = [(.badValue, [])] := by decide +kernel
/-- GET_CLOCK after reset: INTERNAL, 48 kHz, INTERNAL, detected 48 kHz, N, frame 0, position 0 (R17, R18). -/
theorem test_get_clock : answers (.getClock 0 []) (atN 0x010203 up) =
    [(.ok, [0, 1, 0, 1, 3, 2, 1, 0, 0, 0, 0, 0, 0, 0, 0, 0, 0, 0])] := by decide +kernel
theorem test_wcki_starts_measurement :
    (run (.wckiEdge ⟨0, 1⟩ 512) (clocked .wordIn .acquiring 3 false none up)).clock.measurement = some ⟨0, 0⟩ := by decide +kernel
theorem test_wcki_lock_run : (run (.wckiEdge ⟨0, 1⟩ 512) (clocked .wordIn .acquiring 3 false none up)).clock.lockRun = 4 := by decide +kernel
theorem test_measurement_mismatch :
    told (.rateMeasurementComplete ⟨0, 1⟩ 512) (clocked .wordIn .acquiring 3 false (some ⟨255, 65024⟩) up) =
      [⟨0, .clockState .holdover .wordIn .r48 (some .r96) .rateMismatch⟩] := by decide +kernel
theorem test_lock : (run (.acquireLock (.wcki ⟨0, 1⟩ 512)) (clocked .wordIn .acquiring 63 true none up)).clock.state = .locked := by decide +kernel
theorem test_no_reference : (run .referenceTimeout (clocked .wordIn .acquiring 3 false none up)).clock.state = .holdover := by decide +kernel
theorem test_acquire_timeout_once : (told .acquireTimeout (run .acquireTimeout (clocked .wordIn .acquiring 3 false none up))).length = 1 := by
  decide +kernel
theorem test_start_of_frame : (run (.startOfFrame 0x123 ⟨0, 1⟩) (atN 77 up)).link.mark = ⟨0x123, 77⟩ := by decide +kernel
theorem test_same_frame_number :
    (run (.startOfFrame 5 ⟨0, 1⟩) (atN 99 (run (.startOfFrame 5 ⟨0, 1⟩) (atN 77 up)))).link.mark = ⟨5, 77⟩ := by decide +kernel
theorem test_link_return :
    (run (.linkReferenceReturn 9 ⟨0, 1⟩) (up.withClock { up.clock with source := .linkFrame, state := .holdover, refRun := 255 })).clock.state =
      .acquiring := by decide +kernel
theorem test_link_record :
    (run (.linkCorrectionRecord 9 ⟨0, 1⟩) (up.withClock { up.clock with source := .linkFrame, state := .locked, refRun := 255 })).clock.refRun =
      0 := by decide +kernel
theorem test_boundary_advances : (run (.frameBoundary 512 []) (atN 41 up)).clock.n = 42 := by decide +kernel
theorem test_switching_stops : (run (.frameBoundary 512 []) (up.withClock { up.clock with switching := true })).clock.n = 0 := by decide +kernel
theorem test_switch_done :
    (run .crystalSwitchDone (up.withClock { up.clock with switching := true })).clock.switching = false := by decide +kernel

/-- Twice 256 edges with the correction 1 in force, then a count of 131,072: the mean is 1 (R9). -/
theorem test_record_mean :
    ((fun r : Ratio => decide (r.num = r.den)) (run (.rateMeasurementComplete ⟨0, 1⟩ 512)
      ((clocked .wordIn .locked 64 true (some ⟨255, 130560⟩) up).withClock
        { (clocked .wordIn .locked 64 true (some ⟨255, 130560⟩) up).clock with window := ⟨130560, 1⟩ })).clock.held) = true := by decide +kernel
theorem test_record_steered :
    (run (.linkCorrectionRecord 9 ⟨0, 1⟩) (up.withClock { up.clock with
      source := .linkFrame, state := .locked, refRun := 255, steered := ⟨1001, 1000⟩ })).clock.held = ⟨1001, 1000⟩ := by decide +kernel

/-! ### Clock outputs and tally units -/

/-- R19's table: M/4 at 44.1 kHz is 5,644,800 Hz. -/
theorem test_output_hz : Choice.hz16 .m4 .r44 = 16 * 5644800 := by decide +kernel
theorem test_output_starting : ((run (.setClockOutput 0 [2, 3, 1, 1]) up).out 2).map ClockOut.state = some .starting := by decide +kernel
theorem test_output_range : answers (.setClockOutput 0 [4, 3, 1, 1]) up = [(.badValue, [])] := by decide +kernel
/-- After reset the divider stands at 0; 8 cycles later it is a multiple of 4, and the pin has held its level for a whole period. -/
theorem test_output_starts :
    ((run (.clockOutputStart 2 8) (run (.setClockOutput 0 [2, 3, 0, 1]) up)).out 2).map ClockOut.state = some .running := by decide +kernel
theorem test_output_misses :
    ((run (.clockOutputStart 2 6) (run (.setClockOutput 0 [2, 3, 0, 1]) up)).out 2).map ClockOut.state = some .starting := by decide +kernel
theorem test_output_closes :
    ((run (.clockOutputPeriodEnd 2 4 false) (run (.setClockOutput 0 [2, 3, 0, 0])
      (run (.clockOutputStart 2 8) (run (.setClockOutput 0 [2, 3, 0, 1]) up)))).out 2).map ClockOut.state = some .quiet := by decide +kernel
/-- An M/4 period: active, here low with inversion, for the first four half-cycles of M, then inactive (R19). -/
theorem test_pin : [0, 3, 4, 7, 8].map (fun k => (run (.clockOutputStart 2 8) (run (.setClockOutput 0 [2, 3, 1, 1])
    (up.putOut 2 { ClockOut.reset with inv := true, heldCycles := 4 }))).cko 2 512 k) = [false, false, true, true, false] := by decide +kernel
/-- A change of inversion mid-frame: the frame's 6 cycles left are less than the 512 of a WORD period at 48 kHz (R20). -/
theorem test_word_waits : ((run (.frameBoundary 6 []) (run (.setClockOutput 0 [2, 6, 1, 1])
    (run (.clockOutputStart 0 506) (run (.frameBoundary 512 []) up)))).out 2).map ClockOut.state = some .starting := by decide +kernel
theorem test_word_starts : ((run (.frameBoundary 512 []) (run (.frameBoundary 6 []) (run (.setClockOutput 0 [2, 6, 1, 1])
    (run (.clockOutputStart 0 506) (run (.frameBoundary 512 []) up))))).out 2).map ClockOut.state = some .running := by decide +kernel
/-- GET_OUTPUTS: 4 records of 7 bytes and 4 of 42 (R31, R186). -/
theorem test_get_outputs : (answers (.getOutputs 0 []) up).map (fun r => r.2.length) = [196] := by decide +kernel

/-- A = 1,000, W = 100, T = 480 (R28, R29). -/
def train : TallySettings := ⟨.periodic, 1000, 100, 480, .activeLow⟩

theorem test_set_tally_pin : ((run (.setTally 0 (1 :: train.bytes)) up).tally 1).map Tally.pin = some true := by decide +kernel
theorem test_set_tally_width : answers (.setTally 0 ([1, 1] ++ bytesOf 6 1000 ++ bytesOf 4 480 ++ bytesOf 4 480 ++ [0])) up =
    [(.badValue, [])] := by decide +kernel
theorem test_run_tally_active : ((run (.runTally 0 [1]) (atN 2000 (run (.setTally 0 (1 :: train.bytes)) up))).tally 1).map
    (fun t => (t.state, t.edge)) = some (.active, some 2060) := by decide +kernel
theorem test_run_tally_nothing : answers (.runTally 0 [1]) up = [(.noSuch, [])] := by decide +kernel
/-- New settings A = 2,200, W = 48, T = 960 evaluated at 2,440 rest until 3,160. -/
theorem test_evaluate_resting : (⟨.periodic, 2200, 48, 960, .activeHigh⟩ : TallySettings).evaluate 2440 = (.resting, some 3160) := by decide +kernel
theorem test_evaluate_oneshot :
    ((⟨.oneshot, 5000, 10, 0, .activeHigh⟩ : TallySettings).evaluate 4990, (⟨.oneshot, 5000, 10, 0, .activeHigh⟩ : TallySettings).evaluate 5007,
      (⟨.oneshot, 5000, 10, 0, .activeHigh⟩ : TallySettings).evaluate 5010) =
      ((.waiting, some 5000), (.active, some 5010), (.stopped, none)) := by decide +kernel
theorem test_stop_tally :
    ((run (.stopTally 0 [1]) (run (.runTally 0 [1]) (atN 2000 (run (.setTally 0 (1 :: train.bytes)) up)))).tally 1).map Tally.state =
      some .stopped := by decide +kernel

/-! ### Streams -/

/-- DEFINE_STREAM of two channels at C = 256 needs one page, the lowest (R36). -/
theorem test_define : answers (.defineStream 0 (dPlay.bytes 3)) (roles up) = [(.ok, [0, 1, 0])] := by decide +kernel
/-- A PLAY map on a CAPTURE port fails (R35). -/
theorem test_define_role : answers (.defineStream 0 ({ dPlay with map := [⟨1, 0⟩] }.bytes 3)) (roles up) = [(.conflict, [])] := by decide +kernel
theorem test_arm : told (.armStream 0 [3]) (atN 5 (run (.defineStream 0 (dPlay.bytes 3)) (roles up))) =
    [⟨5, .streamState 3 .armed .arm false false none none⟩] := by decide +kernel
theorem test_arm_running : answers (.armStream 0 [0]) (withPlay playing up) = [(.busy, [])] := by decide +kernel
/-- The capture start of chapter 5's worked case: C 4,096, B 512, R 2,000, armed at 100,000, T = 120,000 = N gives 118,000. -/
theorem test_capture_start : (capturing 100000).captureStart 120000 120001 = 118000 := by decide +kernel
theorem test_trigger : answers (.triggerStream 0 [0]) (atN 120000 (withPlay (capturing 100000) up)) =
    [(.ok, bytesOf 6 118000 ++ zeros 7 ++ [0])] := by decide +kernel
theorem test_trigger_idle : answers (.triggerStream 0 [0]) (withPlay (Stream.defined dPlay 0 1) up) = [(.busy, [])] := by decide +kernel
theorem test_stop_running : answers (.stopStream 0 [0]) (atN 9 (withPlay playing up)) = [(.ok, [1, 9, 0, 0, 0, 0, 0])] := by decide +kernel
theorem test_stop_idle : answers (.stopStream 0 [0]) (withPlay (Stream.defined dPlay 0 1) up) = [(.ok, zeros 7)] := by decide +kernel
theorem test_delete : ((run (.deleteStream 0 [3]) (run (.defineStream 0 (dPlay.bytes 3)) (roles up))).stream 3).isNone = true := by decide +kernel
theorem test_delete_none : answers (.deleteStream 0 [3]) up = [(.noSuch, [])] := by decide +kernel
theorem test_get_stream_range : answers (.getStream 0 [16]) up = [(.badValue, [])] := by decide +kernel
/-- GET_POOL after reset: 256 free pages in one run (R48). -/
theorem test_get_pool : answers (.getPool 0 []) up = [(.ok, [0, 1, 0, 1, 1, 0, 0, 1, 255])] := by decide +kernel

/-- A play block of one S16 frame of two channels for position 10, with REPORT_PLAYED. -/
def block : List Byte := [0, 1, 1, 0, 10, 0, 0, 0, 0, 0, 0x34, 0x12, 0xFF, 0xFF]

theorem test_play_block : (run (.playBlock block) (withPlay playing up)).engine.pool = [(20, 0x123400), (21, 0xFFFF00)] := by decide +kernel
theorem test_play_block_late : told (.playBlock block) (atN 11 (withPlay playing up)) =
    [⟨11, .blockRefused 0 .late 10 1⟩] := by decide +kernel
/-- The placed frame goes out at its boundary, and its report mark is taken (R60, R66). -/
theorem test_playout : ((run (.frameBoundary 512 []) (withPorts (atN 10 (run (.playBlock block) (withPlay playing up))))).port 0).map Port.sdOut =
    some [0x12340000, 0xFFFF0000] := by decide +kernel
theorem test_gap : told (.frameBoundary 512 []) (withPlay playing up) = [⟨1, .streamGap 0 0 1⟩] := by decide +kernel

/-- R87's table: S16 rounds halves upward and is limited. -/
theorem test_host_s16 : [8388607, 8388480, 8388479, -8388608, 127, 128, -128, -129].map (fun v => hostSample .s16 (BitVec.ofInt 24 v)) =
    [bytesOf 2 32767, bytesOf 2 32767, bytesOf 2 32767, bytesOf 2 32768, bytesOf 2 0, bytesOf 2 1, bytesOf 2 0, bytesOf 2 65535] := by
  decide +kernel

/-- Frame 7 of a capture stream takes the first 24 bits of its slot (R71, R110, R119). -/
theorem test_capture_write :
    poolRead (run (.frameBoundary 512 [[], [0xABCDEF12, 0]]) (withPorts (atN 7 (withPlay (capturing 0) up)))).engine.pool (1024 + 7) =
      0xABCDEF := by decide +kernel

/-- A slow reader: at N − Dp = C the oldest block is dropped (R79). -/
theorem test_overrun :
    ((run (.frameBoundary 512 []) (withPorts (atN 4096 (withPlay { capturing 0 with state := .running, start := some 0, dp := some 0 } up)))).stream
      0).map (fun st => (st.dp, st.disc, st.allowance)) = some (some 512, true, 2) := by decide +kernel

/-! ### Cues -/

/-- Chapter 6's repeat example: due 100,000, interval 48,000, repeats 5, fired at 250,000. -/
def metronome : CueEntry :=
  { tag := 9, due := 100000, action := .tallyRun 1, policy := .fire, notify := true, interval := 48000, repeats := 5 }

theorem test_repeat : (metronome.next 250000).map (fun e => (e.due, e.repeats)) = some (292000, 1) := by decide +kernel
theorem test_repeat_skips : metronome.skips 250000 = true := by decide +kernel
theorem test_post_cue : answers (.postCue 0 metronome.bytes) up = [(.ok, [0, 1] ++ bytesOf 6 100000)] := by decide +kernel
theorem test_post_cue_late : answers (.postCue 0 metronome.bytes) (atN 250000 up) = [(.ok, [1, 1] ++ bytesOf 6 292000)] := by decide +kernel
theorem test_cue_fires_at_due :
    ((run (.frameBoundary 512 []) (atN 100000 (run (.postCue 0 metronome.bytes) (run (.setTally 0 (1 :: train.bytes)) up)))).tally 1).map
      Tally.state = some .resting := by decide +kernel
theorem test_cancel_cue : answers (.cancelCue 0 [9, 0]) up = [(.noSuch, [])] := by decide +kernel
theorem test_list_cues : answers (.listCues 0 []) (up.withCues [metronome]) = [(.ok, zeros 6 ++ [1] ++ metronome.bytes)] := by decide +kernel
theorem test_flush_cues : answers (.flushCues 0 []) (up.withCues [metronome]) = [(.ok, [1])] := by decide +kernel

/-! ### Ports -/

/-- R110's table of BCK: 2 slots at base rate divide M by 8, 8 slots at twice by 1; 8 slots at four times base rate are refused. -/
theorem test_bck : (bckDivisor 2 1, bckDivisor 8 2, bckDivisor 4 1, bckDivisor 8 4) = (8, 1, 4, 0) := by decide +kernel
theorem test_configure_port : ((run (.configurePort 0 [4, 2, 8, 3, 0]) up).port 4).map (fun p => (p.role, p.slots, p.settle)) =
    some (.playback, 8, 3) := by decide +kernel
theorem test_configure_slots : answers (.configurePort 0 [4, 2, 3, 3, 0]) up = [(.badValue, [])] := by decide +kernel
theorem test_init_list : ((run (.setInitList 0 [4, 1, 0x1A, 2, 3, 1]) up).port 4).map Port.initList = some [⟨0x1A, 2, 3, true⟩] := by decide +kernel
theorem test_start_port_no_entry : answers (.startPort 0 [0]) (roles up) = [(.ok, [2])] := by decide +kernel
theorem test_start_port_init :
    (run (.startPort 0 [0]) (run (.setInitList 0 [0, 2, 0x1A, 2, 3, 0, 0x1B, 4, 5, 1]) (roles up))).bus.active.map Job.kind =
      some (.init 0 [⟨1, 0x1B, 4, 5⟩] false) := by decide +kernel
theorem test_stop_port : ((run (.stopPort 0 [0]) (withPorts up)).port 0).map Port.state = some .off := by decide +kernel
theorem test_get_port : answers (.getPort 0 [5]) up = [(.ok, [0, 2, 0, 0, 0] ++ zeros 3 ++ zeros 4 ++ [0])] := by decide +kernel
theorem test_port_settled : told (.portSettled 0) (atN 30 (run (.startPort 0 [0]) (roles up))) =
    [⟨0, .portState 0 .settling .start none 0⟩, ⟨31, .portState 0 .running .settled none 0⟩] := by decide +kernel

/-! ### The control bus -/

/-- A WRITE of two bytes to 1AH: start, 34H, the bytes, stop (R122, R123). In a READ the part acknowledges each byte but the last. -/
theorem test_wire_write : (Transaction.write 0x1A [7, 8]).wire (.done []) =
    some [.start, .sent 0x34 true, .sent 7 true, .sent 8 true, .stop] := by decide +kernel
theorem test_wire_read : (Transaction.read 0x1A 9 2).wire (.done [4, 5]) =
    some [.start, .sent 0x34 true, .sent 9 true, .repeatedStart, .sent 0x35 true, .received 4 true, .received 5 false, .stop] := by decide +kernel

/-- A READ of one byte is active. -/
def busy : Hub := run (.converterXfer 0x0201 [1, 0x1A, 1, 9]) up

theorem test_xfer_done : answers (.transactionEnd (.done [5])) busy = [(.ok, [1, 5])] := by decide +kernel
theorem test_xfer_no_ack : answers (.transactionEnd (.noAckAddress true)) busy = [(.noAckAddress, [])] := by decide +kernel
theorem test_xfer_shape : answers (.converterXfer 0 [0, 0x1A, 2, 0, 7]) up = [(.malformed, [])] := by decide +kernel
theorem test_abort_active : (run (.abortXfer 0 [1, 2]) busy).bus.active.map Job.ending = some true := by decide +kernel
theorem test_marked_end : answers .markedJobEnd (run (.abortXfer 0 [1, 2]) busy) = [(.ok, []), (.aborted, [])] := by decide +kernel
/-- Marked while it reads its first byte, the READ completes that byte, does not acknowledge it, and stops (R129). -/
theorem test_marked_wire : (run (.markedJobEnd (some ⟨5, true, [8], 0⟩)) (run (.abortXfer 0 [1, 2])
    (run (.converterXfer 0x0201 [1, 0x1A, 2, 9]) up))).bus.lastWire =
      [.start, .sent 0x34 true, .sent 9 true, .repeatedStart, .sent 0x35 true, .received 8 false, .stop] := by decide +kernel
/-- Stuck at the third bit of the register byte: both lines are released, without a stop (R130). -/
theorem test_stuck_wire : (run (.busStuck (some ⟨1, true, [], 2⟩)) busy).bus.lastWire = [.start, .sent 0x34 true, .cutSent 9 2, .released] ∧
    (run (.busStuck (some ⟨1, true, [], 2⟩)) busy).bus.rest = ⟨false, false⟩ := by decide +kernel
/-- Stuck in the acknowledge slot of a byte it reads, the part holds CSDA low for the first of two and not for the last (R122, R123, R130). -/
theorem test_stuck_ack : let h := run (.converterXfer 0 [1, 0x1A, 2, 9]) up
    ((run (.busStuck (some ⟨4, true, [], 9⟩)) h).bus.lastWire.drop 5 = [.cutReceived 9 true, .released]) ∧
    (run (.busStuck (some ⟨5, true, [8], 9⟩)) h).bus.lastWire.drop 5 = [.received 8 true, .cutReceived 9 false, .released] ∧
    (BusItem.cutReceived 9 true).drives.getLast? = some ⟨false, true⟩ := by decide +kernel
theorem test_recovery_wire : (run (.busRecoveryEnd true) (run (.converterXfer 0 [2, 0x1A, 0, 0]) (run .busStuck busy))).bus.lastWire =
    List.replicate 9 .pulse ++ [.stop] := by decide +kernel
/-- The start of a byte with its top bits 1 and 0: start, a cycle with CSDA released, a cycle with CSDA low (R122). -/
theorem test_drives : (BusItem.start.drives ++ (BusItem.sent 0x80 true).drives.take 4) =
    [⟨false, false⟩, ⟨false, true⟩, ⟨true, false⟩, ⟨false, false⟩, ⟨true, true⟩, ⟨false, true⟩] := by decide +kernel
theorem test_bus_stuck : ((run .busStuck busy).bus.stuck, answers .busStuck busy) = (true, [(.busStuck, [])]) := by decide +kernel
theorem test_recovery : (run (.busRecoveryEnd true) (run (.converterXfer 0 [2, 0x1A, 0, 0]) (run .busStuck busy))).bus.stuck = false := by decide +kernel
theorem test_release : (run .busReleaseEnd (run (.resetPart 0 []) busy)).bus.releasing = false := by decide +kernel
theorem test_get_control_bus : answers (.getControlBus 0 []) busy = [(.ok, [0, 1, 0, 1, 2] ++ zeros 7 ++ [0, 0, 0, 0])] := by decide +kernel

/-! ### The surface bus -/

/-- R135's table of type bytes. -/
theorem test_type_bytes : [1, 2, 3, 4, 5, 6, 8].map typeByte = [0xE1, 0xD2, 0xC3, 0xB4, 0xA5, 0x96, 0x78] := by decide +kernel
/-- A character is 10 bits: start low, E1H least significant bit first, stop high; SBE is high for the packet's 50 bits (R134). -/
theorem test_sbe : (numbers 0 10).map (round { onlineNode with resetPending := false } |> run .visitStart).surface.line =
      [false, true, false, false, false, false, true, true, true, true] ∧
    [0, 49, 50].map (run .visitStart (round onlineNode)).surface.sbe = [true, true, false] := by decide +kernel
/-- The check value of this CRC over the digits 1 to 9 is 29B1H. -/
theorem test_crc : crcOf [0x31, 0x32, 0x33, 0x34, 0x35, 0x36, 0x37, 0x38, 0x39] = 0x29B1 := by decide +kernel
theorem test_set_node : ((run (.setNode 0 [3, 1, 5, 1]) up).node 3).map (fun n => (n.state, n.allowance, n.resetPending)) =
    some (.online, 5, true) := by decide +kernel
theorem test_set_node_reload : answers (.setNode 0 [3, 1, 8, 1]) up = [(.badValue, [])] := by decide +kernel
theorem test_round : (run .roundStart (up.putNode 3 { Node.reset with state := .offline, rounds := 15 })).node 3 =
    some { Node.reset with state := .offline, rounds := 16 } := by decide +kernel
/-- The first visit of a node with RESET pending sends RESET (R140). -/
theorem test_visit_reset : (run .visitStart (run .roundStart (run (.setNode 0 [3, 1, 5, 1]) up))).surface.lastSent.take 3 =
    [0xC3, 3, 0] := by decide +kernel
theorem test_reset_answered :
    ((run (.resetExchangeEnd (cleanAnswer (packetOf packetAck 3 [])))
      (awaiting .reset { onlineNode with resetPending := true, toggle := true } up)).node 3).map (fun n => (n.resetPending, n.toggle, n.touched)) =
        some (false, false, []) := by decide +kernel
theorem test_write_answered :
    ((run (.writeExchangeEnd (cleanAnswer (packetOf packetAck 3 [])))
      (awaiting .write { onlineNode with queue := [⟨1, .led, 2, true, false⟩, ⟨2, .led, 3, true, true⟩] } up)).node 3).map Node.queue =
        some [⟨2, .led, 3, false, false⟩] := by decide +kernel
theorem test_timeout : ((run .answerTimeout (awaiting .poll { onlineNode with allowance := 1 } up)).node 3).map Node.state = some .offline := by
  decide +kernel
theorem test_probe : ((run (.probeEnd (cleanAnswer (packetOf packetNak 3 []))) (awaiting .probe { Node.reset with state := .offline } up)).node 3).map
    Node.state = some .online := by decide +kernel
theorem test_reset_visit :
    answers (.resetVisitEnd (cleanAnswer (packetOf packetAck 3 [])))
      (run .visitStart (run .roundStart (run (.resetNode 0 [3]) (up.putNode 3 { Node.reset with state := .halted })))) = [(.ok, [])] := by decide +kernel
theorem test_reset_node_disabled : answers (.resetNode 0 [3]) up = [(.busy, [])] := by decide +kernel
theorem test_surface_write : ((run (.surfaceWrite 0 [3, 6, 17, 0xFF, 3]) (up.putNode 3 onlineNode)).node 3).map Node.queue =
    some [⟨6, .motor, 1023, false, false⟩] := by decide +kernel
theorem test_surface_write_limit : answers (.surfaceWrite 0 [3, 6, 17, 0, 4]) (up.putNode 3 onlineNode) = [(.badValue, [])] := by decide +kernel
theorem test_get_node : answers (.getNode 0 [3]) (up.putNode 3 onlineNode) =
    [(.ok, [1, 3, 3, 1, 0, 0, 0, 0, 0, 1, 5, 1, 7])] := by decide +kernel
theorem test_report_stamp : (run .reportReceived (atN 55 (awaiting .poll onlineNode up))).surface.exchange.bind Exchange.stamp = some 55 := by
  decide +kernel

/-- A report of a button press of control 4 (R156, R158, R159). -/
def press : LineAnswer := cleanAnswer (packetOf packetReport 3 [0, 4, 3, 1, 0])

theorem test_report : told (.pollExchangeEnd press) (awaiting .poll onlineNode up) =
    [⟨0, .surfaceEvent 3 4 .button 1 40 false⟩] := by decide +kernel
/-- An ENCODER count of −128 is limited to −127 (R156). -/
theorem test_encoder : handledValue .encoder 0x80 = -127 := by decide +kernel

/-- Control 4 of node 3, pressed, triggers stream 0. -/
def trigger : Binding := ⟨⟨3, 4⟩, .press, none, .streamTrigger 0⟩

theorem test_set_binding : (run (.setBinding 0 [31, 3, 4, 0, 0, 0, 0, 0, 0, 0]) up).surface.bindings[31]? = some (some trigger) := by decide +kernel
theorem test_binding_fires :
    ((run (.pollExchangeEnd press) (awaiting .poll onlineNode (atN 50 (withPlay { playing with state := .armed }
      (run (.setBinding 0 (trigger.bytes 31)) up))))).stream 0).map (fun st => (st.state, st.start)) = some (.running, some 40) := by decide +kernel
theorem test_clear_binding : answers (.clearBinding 0 [32]) up = [(.badValue, [])] := by decide +kernel
theorem test_list_bindings : answers (.listBindings 0 []) (run (.clearBinding 0 [31]) up) =
    [(.ok, []), (.ok, [0])] := by decide +kernel

/-! ### Meters -/

/-- R166's table. -/
theorem test_level_index : [0, 1, 2, 3, 4, 7, 1000000, 4194304, 8388607].map levelIndex = [0, 1, 5, 7, 9, 12, 80, 89, 92] := by decide +kernel
/-- R167's worked case, H = 3 and F = 24: a level index of 80 is displayed at once, held for three periods, and then decays. -/
theorem test_ballistics :
    ((fun m : Meter => [m.evaluated 80, ((((m.evaluated 80).evaluated 0).evaluated 0).evaluated 0), (((((m.evaluated 80).evaluated 0).evaluated
      0).evaluated 0).evaluated 0)]) { Meter.reset with hold := 3, decay := 24 }).map (fun m => (m.d16, m.holdCount)) =
        [(1280, 3), (1280, 0), (1256, 0)] := by decide +kernel
theorem test_magnitude : magnitude (BitVec.ofInt 24 (-8388608)) = 8388607 := by decide +kernel
theorem test_set_meter : ((run (.setMeter 0 [2, 1, 1, 0, 5, 24, 1, 0, 0, 8]) up).meter 2).map (fun m => (m.source, m.hold, m.decay, m.threshold, m.clipRun)) =
    some (some ⟨1, 0⟩, 5, 24, 1, 8) := by decide +kernel
theorem test_set_meter_decay : answers (.setMeter 0 [2, 1, 1, 0, 5, 0, 1, 0, 0, 8]) up = [(.badValue, [])] := by decide +kernel
theorem test_meter_display : answers (.setMeterDisplay 0 [2, 1, 17, 0, 32]) up = [(.badValue, [])] := by decide +kernel
theorem test_read_meters : answers (.readMeters 0 [2, 2, 2]) up = [(.ok, [2, 2, 0, 0, 0, 2, 0, 0, 0])] := by decide +kernel
theorem test_clear_meters :
    ((run (.clearMeters 0 [0, 1, 2]) (up.putMeter 2 { Meter.reset with maxIndex := 9, clipped := true })).meter 2) = some Meter.reset := by decide +kernel
/-- A node that goes OFFLINE leaves its display without a last posted value (R169). -/
theorem test_posted_absent :
    ((run .answerTimeout (awaiting .poll { onlineNode with allowance := 1 }
      (up.putMeter 2 { Meter.reset with display := some ⟨3, 1, 8⟩, posted := some 4 }))).meter 2).map Meter.posted = some none := by decide +kernel
/-- A clip of run 1 at the sample of frame 7 is posted with position 7 and stamp 8 (R168). -/
theorem test_clip :
    told (.frameBoundary 512 [[], [0x00000500, 0]]) (withPorts (atN 7 (run (.setMeter 0 [2, 1, 1, 0, 5, 24, 5, 0, 0, 1]) up))) =
      [⟨8, .clip 2 7⟩] := by decide +kernel

/-! ### Messages -/

/-- The kind bytes of chapter 13. -/
theorem test_kind_bytes : [1, 2, 9, 10, 11].map kindByte = [0xE1, 0xD2, 0x69, 0x5A, 0x4B] := by decide +kernel
/-- The manual's TRIGGER_STREAM message for stream 9, tag 0102H: an undefined stream is refused. -/
theorem test_out_packet : (run (.outPacket [0xE1, 0x22, 0x02, 0x01, 0x01, 0x00, 0x09]) up).link.replies =
    [⟨0x22, 0x0102, .noSuch, []⟩] := by decide +kernel
theorem test_out_packet_split :
    (run (.outPacket (List.replicate 512 0)) up).link.assembly = .discard := by decide +kernel
/-- A message of 512 bytes is one full packet and an empty one (R179). -/
theorem test_in_packets : (inPackets (List.replicate 512 0)).map List.length = [512, 0] := by decide +kernel
theorem test_unknown : answers (.unknownCommand 0x7F 1 []) up = [(.unknownCommand, [])] := by decide +kernel
theorem test_unknown_named : (run (.unknownCommand 0x02 1 []) up).link.replies = [] := by decide +kernel
theorem test_transmit_reply : ((run .transmitTake (run (.stopTally 0x0102 [0]) up)).link.sending).map Sending.bytes =
    some [0x69, 0x14, 2, 1, 1, 0, 0] := by decide +kernel
theorem test_message_sent : (run .messageSent (run .transmitTake (run (.stopTally 0 [0]) up))).link.sending = none := by decide +kernel
/-- DESCRIBE (R182): the body is 47 bytes after the status. -/
theorem test_describe : (answers (.describe 0 []) up).map (fun r => r.2.take 7) = [[0x47, 0x65, 0x72, 0x61, 0x73, 0x6B, 0x6F]] := by decide +kernel

/-- All sixteen entries are held: dispatch pauses, and goes on once one is free (R177). -/
def crowded : Hub := up.withLink { up.link with replies := List.replicate 16 ⟨0x13, 0, .ok, []⟩ }

theorem test_pause : (run (.getClock 5 []) crowded).link.paused = some ⟨0x02, 5, []⟩ := by decide +kernel
theorem test_resume_dispatch :
    ((run .dispatchResume ((run .transmitTake (run (.getClock 5 []) crowded)))).link.replies.map Reply.code).getLast? = some 0x02 := by decide +kernel

/-! ### Witnesses: resets, chapter 1 -/

theorem ready {h : Hub} (a : (h.takesMessages && decide (h.link.entriesHeld < 16) && !(h.link.held.contains h.link.serial)) = true) :
    h.Ready := by
  simp only [Bool.and_eq_true, decide_eq_true_eq, Bool.not_eq_true', List.contains_eq_mem, decide_eq_false_iff_not] at a
  exact ⟨a.1.1, a.1.2, a.2⟩

/-- For PartResets, LinkEvents, Reports, RefusedCommandsChangeNothing. -/
theorem witness_ready : up.Ready ∧ up.resetN = true ∧ shapeOf 0x22 = some (.fixed 1) ∧ ¬ (BodyShape.fixed 1).holds [] ∧ shapeOf 0x7F = none :=
  ⟨ready (by decide), by decide, by decide, by simp [BodyShape.holds], by decide⟩

theorem witness_rate_change : up.Ready ∧ (.r96 : Rate) ≠ up.clock.rate ∧ up.rateFree :=
  ⟨ready (by decide), by decide, streams_all (by decide +kernel), by decide⟩

theorem witness_rate_refused : (withPorts up).Ready ∧ (.r96 : Rate) ≠ (withPorts up).clock.rate ∧ ¬ (withPorts up).rateFree :=
  ⟨ready (by decide), by decide, fun h => absurd h.2 (by decide)⟩

theorem witness_rate_kept : (.r48 : Rate) = up.clock.rate ∧ (.internal : Source) = up.clock.source ∧ (.wordIn : Source) ≠ up.clock.source := by
  decide

theorem witness_edge : ∀ r ∈ [3, 63], ∀ m ∈ [none, some ⟨254, 5⟩], (clocked .wordIn .acquiring r true m up).resetN = true ∧
    (clocked .wordIn .acquiring r true m up).clock.source = .wordIn ∧ (clocked .wordIn .acquiring r true m up).measurementDue = false ∧
    withinBound ⟨1, 64⟩ = true := by decide

theorem witness_lock : ∀ p ∈ [(clocked .wordIn .acquiring 63 true none up, RefEvent.wcki ⟨1, 64⟩ 512),
    (clocked .linkFrame .acquiring 63 false none up, RefEvent.sof 5 ⟨-1, 64⟩)],
    p.1.resetN = true ∧ p.1.lockDue p.2 = true ∧ p.1.measurementDue = false := by decide

/-- A count of 131,072 matches 48 kHz and 65,536 does not, in each state; a lock run of 64 is met and not met. -/
theorem witness_measurement : ∀ st ∈ [ClockState.internal, .acquiring, .locked, .holdover], ∀ c ∈ [130560, 65024], ∀ r ∈ [3, 64],
    (clocked .wordIn st r false (some ⟨255, c⟩) up).resetN = true ∧ (clocked .wordIn st r false (some ⟨255, c⟩) up).clock.source = .wordIn ∧
      (clocked .wordIn st r false (some ⟨255, c⟩) up).clock.measurement = some ⟨255, c⟩ ∧
      (clocked .wordIn st r false (some ⟨255, c⟩) up).lockDue (.wcki ⟨1, 64⟩ 512) = false ∧
      (clocked .wordIn st r false (some ⟨255, c⟩) up).clock.state = st := by decide

theorem witness_timeouts : ∀ st ∈ [ClockState.acquiring, .locked, .holdover],
    (clocked .wordIn st 3 false none up).resetN = true ∧ (clocked .wordIn st 3 false none up).clock.source ≠ .internal ∧
      (clocked .wordIn st 3 false none up).clock.state = st := by decide

theorem witness_acquire_timeout : ∀ ms ∈ [0, 1999, 2000],
    ((clocked .wordIn .acquiring 3 false none up).withClock { (clocked .wordIn .acquiring 3 false none up).clock with
      timer := some ms }).clock.timer = some ms := by decide

def framed (st : ClockState) : Hub := up.withClock { up.clock with source := .linkFrame, state := st, refRun := 255 }

theorem witness_start_of_frame : up.resetN = true ∧ up.link.configured = true ∧ up.link.lastFrame ≠ some 5 ∧ up.clock.source ≠ .linkFrame ∧
    (run (.startOfFrame 5 ⟨0, 1⟩) up).link.lastFrame = some 5 ∧ ∀ st ∈ [ClockState.locked, .holdover], (framed st).resetN = true ∧
      (framed st).clock.source = .linkFrame ∧ 255 ≤ (framed st).clock.refRun ∧ (framed st).link.configured = true ∧
      (framed st).link.lastFrame ≠ some 5 ∧ (framed st).clock.state = st := by decide

theorem witness_frames_run : up.framesRun ∧ up.noCueDue ∧ (up.withClock { up.clock with switching := true }).clock.switching = true :=
  ⟨⟨by decide, by decide⟩, by simp [Hub.noCueDue, up, Hub.reset], by decide⟩

/-! ### Witnesses: chapter 2 -/

/-- Output 3 in a state, with a period in progress or none. -/
def withOut (o : ClockOut) : Hub := up.putOut 3 o

def outIn (st : OutState) (c : Choice) (staged period : Option OutSetting) : ClockOut :=
  { ClockOut.reset with state := st, choice := c, enable := true, staged := staged, period := period, heldCycles := 4 }

theorem witness_outputs : ∀ st ∈ [OutState.quiet, .starting, .running, .closing, .paused], ∀ c ∈ [Choice.m4, .word],
    ∀ staged ∈ [none, some ⟨Choice.m2, true⟩, some ⟨Choice.m8, false⟩, some ⟨Choice.off, false⟩], ∀ period ∈ [none, some ⟨c, false⟩],
      (withOut (outIn st c staged period)).out 3 = some (outIn st c staged period) ∧ (withOut (outIn st c staged period)).resetN = true := by
  decide +kernel

theorem witness_output_ready : (withOut (outIn .starting .m4 none none)).Ready ∧ (withOut (outIn .starting .m4 none none)).clock.switching = false ∧
    (withOut (outIn .starting .m4 none none)).outputs.switchPending = false ∧ 0 < Choice.m4.divisor ∧
    ((withOut (outIn .starting .m4 none none)).outputs.divider + 0) % 16 % Choice.m4.divisor = 0 ∧
    Choice.m4.divisor ≤ (outIn .starting .m4 none none).heldCycles + 0 :=
  ⟨ready (by decide), by decide, by decide, by decide, by decide, by decide⟩

theorem witness_output_boundary : (withOut (outIn .paused .m4 none none)).framesRun ∧ (withOut (outIn .paused .m4 none none)).noCueDue ∧
    (withOut (outIn .paused .m4 none none)).outputs.zeroNext = true ∧ (withOut (outIn .running .word none (some ⟨.word, false⟩))).framesRun ∧
    (withOut (outIn .running .word none (some ⟨.word, false⟩))).noCueDue :=
  ⟨⟨by decide, by decide⟩, by unfold Hub.noCueDue; decide, by decide, ⟨by decide, by decide⟩, by unfold Hub.noCueDue; decide⟩

theorem train_fits : train.fits := ⟨by decide, by decide, by decide, by decide, by decide, by decide⟩

/-- Unit 3 with the settings of the train, in a state, at N = n. -/
def withTally (st : TallyState) (edge : Option Nat) (staged : Option TallySettings) (n : Nat) : Hub :=
  atN n (up.putTally 3 { settings := some train, staged := staged, state := st, edge := edge, pin := false })

theorem witness_tally_commands : (withTally .stopped none none 2000).Ready ∧ (withTally .resting (some 2440) (some train) 2000).Ready ∧
    ((withTally .stopped none none 2000).tally 3).map Tally.state = some .stopped ∧
    ((withTally .resting (some 2440) (some train) 2000).tally 3).map Tally.state = some .resting ∧
    (up.tally 3).map Tally.settings = some none ∧ 2000 = train.start + 2 * train.period + 40 ∧ 40 < train.period ∧ 40 < train.width ∧ train.fits :=
  ⟨ready (by decide), ready (by decide), by decide, by decide, by decide, by decide, by decide, by decide, train_fits⟩

theorem witness_tally_boundary : (withTally .active (some 2060) none 2060).framesRun ∧ (withTally .active (some 2060) none 2060).noCueDue ∧
    (withTally .active (some 2060) none 2060).clock.n = 2059 + 1 ∧ (TallyState.active, some 2060) = train.evaluate 2059 ∧ train.fits :=
  ⟨⟨by decide, by decide⟩, by unfold Hub.noCueDue; decide, by decide, by decide, train_fits⟩

theorem witness_tally_staged : ∀ st ∈ [TallyState.waiting, .active, .resting], (withTally st (some 2440) (some train) 2440).resetN = true ∧
    (withTally st (some 2440) (some train) 2440).clock.switching = false ∧
    ((withTally st (some 2440) (some train) 2440).tally 3).map (fun t => (t.state, t.settings, t.staged, t.edge)) =
      some (st, some train, some train, some 2440) := by decide

/-! ### Witnesses: chapters 3 to 5 -/

theorem play_fits : dPlay.fits :=
  ⟨by decide, by decide, by decide, by decide, by decide, trivial, rfl, rfl, rfl, .inl rfl⟩

theorem capture_fits : dCapture.fits :=
  ⟨by decide, by decide, by decide, by decide, by decide, trivial, rfl, ⟨512, rfl, by decide, by decide⟩, ⟨2000, rfl, by decide⟩,
    fun w hw => nomatch hw⟩

theorem play_passes : ∀ k e, dPlay.map[k]? = some e → (roles up).mapEntryPasses dPlay.direction dPlay.map k e := by
  intro k e he
  match k, he with
  | 0, he => cases he; exact ⟨_, rfl, by decide, rfl, by decide, by decide⟩
  | 1, he => cases he; exact ⟨_, rfl, by decide, rfl, by decide, by decide⟩
  | n + 2, he => exact absurd he (by simp [dPlay])

theorem witness_define : (roles up).Ready ∧ dPlay.fits ∧ (roles up).engine.streams.length = 16 ∧ (roles up).engine.pages.length = 256 ∧
    (roles up).stream 15 = none ∧ (∀ k e, dPlay.map[k]? = some e → (roles up).mapEntryPasses dPlay.direction dPlay.map k e) ∧
    1 = (dPlay.map.length * dPlay.capacity + 1023) / 1024 ∧ (roles up).engine.freeRun 0 1 ∧ (∀ q, q < 0 → ¬ (roles up).engine.freeRun q 1) :=
  ⟨ready (by decide), play_fits, by decide, by decide +kernel, by decide, play_passes, by decide,
    fun k hk => by
      have : k = 0 := by omega
      subst this
      decide +kernel,
    fun q hq => absurd hq (by omega)⟩

/-- The pool is full. -/
def noPages : Hub := (roles up).withEngine { (roles up).engine with pages := List.replicate 256 (some 5) }

theorem witness_define_full : noPages.Ready ∧ noPages.stream 15 = none ∧ ∀ first, ¬ noPages.engine.freeRun first 1 :=
  ⟨ready (by decide), by decide, fun first h => by
    have := h 0 (by omega)
    rw [show noPages.engine.pages = List.replicate 256 (some 5) from rfl, List.getElem?_replicate] at this
    split at this <;> simp at this⟩

/-- A map entry on a port without a role fails. -/
theorem witness_define_conflict : up.Ready ∧ dPlay.map[0]? = some ⟨0, 0⟩ ∧ ¬ up.mapEntryPasses .play dPlay.map 0 ⟨0, 0⟩ ∧
    (withPlay playing up).stream 0 ≠ none :=
  ⟨ready (by decide), by decide, fun ⟨pt, hp, _, hr⟩ => by
    have h0 : up.port (0 : Nat) = some Port.reset := by decide
    have : pt = Port.reset := by
      have := h0.symm.trans hp
      exact (Option.some.inj this).symm
    subst this
    exact absurd hr.1 (by decide), by decide⟩

/-- Stream 0 in each state, for the commands of chapter 3. -/
theorem witness_stream_states : ∀ st ∈ [StreamState.idle, .armed, .running, .draining, .halted],
    (withPlay { playing with state := st } up).stream 0 = some { playing with state := st } ∧
    ((withPlay { playing with state := st } up).takesMessages = true ∧ (withPlay { playing with state := st } up).link.entriesHeld = 0) ∧
    (withPlay { playing with state := st } up).engine.streams.length = 16 ∧ up.stream 0 = none := by decide

theorem witness_stream_ready : (withPlay playing up).Ready ∧ (withPlay (capturing 100000) up).Ready := ⟨ready (by decide), ready (by decide)⟩

/-- With N = 130,000 the take starts at now − R = 128,000, or at the arm position when that is 129,000; now − C + B is 126,416. -/
theorem witness_trigger_capture : ∀ p ∈ [(100000, 128000), (129000, 129000)],
    ((capturing p.1).state = .armed ∧ (capturing p.1).arm = some p.1 ∧ (capturing p.1).desc.block = some 512 ∧
      (capturing p.1).desc.preRoll = some 2000 ∧
      ((p.2 : Nat) : Int) = max (max ((130000 : Int) - 2000) (p.1 : Nat)) ((130000 : Int) - 4096 + 512)) := by decide

/-- A counted take that is over at the trigger, and one that goes on. -/
theorem witness_trigger_counted : countedEnd (.counted 5) 128000 = some 128005 ∧ 128005 ≤ 130000 ∧
    (∀ x, countedEnd (.counted 2001) 128000 = some x → 130000 < x) := by simp [countedEnd]

/-- A stop in RUNNING: no stop in force, a later one, an earlier one. -/
theorem witness_stop : ∀ e ∈ [none, some 9, some 7], (atN 8 (withPlay { playing with stop := e } up)).stream 0 =
    some { playing with stop := e } ∧
    (atN 8 (withPlay { capturing 0 with state := .running, dp := some 3, stop := e } up)).stream 0 =
      some { capturing 0 with state := .running, dp := some 3, stop := e } ∧ max 8 3 ≤ 8 := by decide

/-- The window of a PLAY stream with C = 256 at N = 10: a block that ends at 11 and one that starts at 265 overlap it. -/
theorem witness_play_block : ∀ p0 ∈ [10, 265], (atN 10 (withPlay playing up)).takesMessages = true ∧
    (atN 10 (withPlay playing up)).stream 0 = some playing ∧ playing.desc.direction = .play ∧ playing.state = .running ∧
    (block.drop 10).length = 1 * playing.desc.map.length * playing.desc.format.width ∧ 10 < p0 + 1 ∧ p0 < 10 + playing.desc.capacity := by
  decide

/-- One frame earlier the block is late, and at 266 it is early; a wrong length is malformed. -/
theorem witness_play_block_refused : (atN 10 (withPlay playing up)).takesMessages = true ∧ up.stream 0 = none ∧
    (withPlay (capturing 0) up).stream 0 = some (capturing 0) ∧ (capturing 0).desc.direction = .capture ∧ shapeFits playing block = true ∧
    9 + 1 ≤ (atN 10 (withPlay playing up)).clock.n ∧ (atN 10 (withPlay playing up)).clock.n + playing.desc.capacity ≤ 266 ∧
    shapeFits playing (block ++ [0]) = false ∧ (withPlay { playing with allowance := 1 } up).stream 0 = some { playing with allowance := 1 } := by
  decide

theorem no_cue {h : Hub} (a : h.cues = []) : h.noCueDue := by simp [Hub.noCueDue, a]

theorem witness_play_boundary : ∀ p ∈ [(StreamState.armed, none, none), (.running, none, none), (.running, some 10, none), (.running, none, some 10)],
    (atN 10 (withPlay { playing with state := p.1, stop := p.2.1, written := match p.2.2 with
      | none => []
      | some q => [(10, q)] } up)).resetN = true ∧ up.clock.switching = false ∧ up.cues = [] ∧ playing.start = some 0 ∧ 0 ≤ 10 := by decide

theorem witness_capture_boundary : ∀ p ∈ [(4096, some 0), (4095, some 0)],
    (atN p.1 (withPlay { capturing 0 with state := .running, dp := p.2 } (withPorts up))).stream 0 =
      some { capturing 0 with state := .running, dp := p.2 } ∧ dCapture.watch = none ∧ up.cues = [] := by decide +kernel

/-- A reply waits; a notice waits; a block is offered with 512 frames ready, and a final one with 40 frames left. -/
def offering (st : StreamState) (e : Option Nat) : Hub :=
  atN 600 (withPlay { capturing 0 with state := st, start := some 0, dp := some 0, stop := e } up)

theorem witness_transmit : (run (.stopTally 0 [0]) up).link.replies = [⟨0x14, 0, .ok, []⟩] ∧ up.link.sending = none ∧
    up.bestOffer = none ∧ up.link.replies = [] ∧ up.link.notices = [] ∧ (up.post (.linkError .badKind)).link.notices = [⟨0, .linkError .badKind⟩] ∧
    (up.post (.linkError .badKind)).bestOffer = none ∧ (offering .running none).bestOffer = some ⟨0, 0, 512, false⟩ ∧
    (offering .draining (some 40)).bestOffer = some ⟨0, 0, 40, true⟩ := by decide +kernel

/-! ### Witnesses: chapter 6 -/

theorem metronome_fits : metronome.fits := by
  refine ⟨by decide, by decide, by decide, by decide, by decide, by decide, ?_⟩
  show 1 < 4
  decide

theorem witness_post_cue : (atN 100000 up).Ready ∧ metronome.fits ∧ (∀ c ∈ (atN 100000 up).cues, c.tag ≠ metronome.tag) ∧
    (atN 100000 up).clock.n ≤ metronome.due ∧ metronome.due < (atN 100001 up).clock.n ∧ metronome.next 100001 ≠ none ∧
    (up.withCues [metronome]).Ready ∧ (∃ c ∈ (up.withCues [metronome]).cues, c.tag = metronome.tag) :=
  ⟨ready (by decide), metronome_fits, by decide, by decide, by decide, by decide, ready (by decide), by decide⟩

/-- A late entry without a repeat. -/
def late (a : CueAction) : CueEntry := { tag := 9, due := 5, action := a, policy := .fire, notify := true, interval := 0, repeats := 0 }

theorem witness_late_fits (a : CueAction) (h : a.fits) : (late a).fits ∧ (late a).due < (atN 6 up).clock.n ∧ (late a).policy = .fire ∧
    (late a).interval = 0 ∧ ∀ c ∈ (atN 6 up).cues, c.tag ≠ (late a).tag :=
  ⟨⟨(by decide : 1 ≤ 9), (by decide : 9 < 65536), (by decide : 5 < 281474976710656), (by decide : 0 < 4294967296), (by decide : 0 < 65536),
    fun _ => rfl, h⟩, (by decide : 5 < 6), rfl, rfl, by simp [show (atN 6 up).cues = [] from rfl]⟩

/-- What the actions name: a stream in a state, a node ONLINE and not, an output, a tally unit with and without settings. -/
theorem witness_late_states : CueAction.fits (.streamTrigger 15) ∧ CueAction.fits (.converterWrite 127 [1, 2, 3, 4]) ∧
    CueAction.fits (.surfaceWrite 16 63 .motor 1023) ∧ CueAction.fits (.clockOutput 3 true) ∧ CueAction.fits (.tallyRun 3) ∧
    (atN 6 up).Ready ∧ (atN 6 up).bus.room = true ∧ (atN 6 up).stream 15 = none ∧
    (up.putNode 16 onlineNode).node 16 = some onlineNode ∧ up.node 16 = some Node.reset ∧ (up.out 3).isSome = true ∧
    ((withTally .stopped none none 6).tally 3).map Tally.state = some .stopped ∧ (up.tally 3).map Tally.settings = some none :=
  ⟨by show 15 < 16; decide, by show 127 ≤ 127 ∧ _; decide, by show 1 ≤ 16 ∧ _; decide, by show 3 < 4; decide, by show 3 < 4; decide,
    ready (by decide), by decide, by decide, by decide, by decide, by decide, by decide, by decide⟩

/-- A late entry finds the converter queue full. -/
theorem witness_late_queue_full :
    (up.withBus { busy.bus with waiting := List.replicate 8 ⟨.xfer 0 0 (.probe 1), false, false, 0⟩ }).bus.room = false := by decide

theorem witness_cues_boundary : (withTally .stopped none none 100000).withCues [metronome, { metronome with tag := 8, due := 100001 }] |>.cuesFit :=
  ⟨by decide, by decide, by decide, by decide⟩

theorem witness_cues_boundary_runs : ((withTally .stopped none none 100000).withCues [metronome]).framesRun ∧
    metronome.due = ((withTally .stopped none none 100000).withCues [metronome]).clock.n :=
  ⟨⟨by decide, by decide⟩, by decide⟩

/-- Fired at 250,000, the entry moves four intervals: 244,000 is not above it and 292,000 is. -/
theorem witness_repeat : metronome.interval ≠ 0 ∧ metronome.repeats ≠ 0 ∧ 250000 < metronome.due + 4 * metronome.interval ∧
    metronome.due + 3 * metronome.interval ≤ 250000 := by decide

theorem witness_cancel : (up.withCues [metronome]).Ready ∧ (∃ c ∈ (up.withCues [metronome]).cues, c.tag = 9) ∧
    ∀ c ∈ (up.withCues [metronome]).cues, c.tag ≠ 65535 := ⟨ready (by decide), by decide, by decide⟩

/-! ### Witnesses: chapters 7 and 8 -/

theorem witness_port_settings : (roles up).Ready ∧ (roles up).port 5 = some Port.reset ∧ (withPorts up).Ready ∧
    ((withPorts up).port 1).map Port.state = some .running ∧
    ∃ st, some st ∈ (withPlay playing (roles up)).engine.streams ∧ ∃ e ∈ st.desc.map, e.port = 0 ∧ (Role.unused ≠ Role.playback) :=
  ⟨ready (by decide), by decide, ready (by decide), by decide, playing, stream_mem (i := 0) (by decide), ⟨0, 0⟩, by decide, rfl, by decide⟩

/-- Port 0 is OFF with a role, with and without an enabled entry; with eight slots at four times base rate it is refused. -/
theorem witness_start_port : (roles up).Ready ∧ ((roles up).port 0).map (fun p => (p.state, p.role, p.slots)) = some (.off, .playback, 2) ∧
    2 * (roles up).clock.rate.multiple ≤ 16 ∧ (∀ e ∈ Port.reset.initList, e.enabled = false) ∧ (roles up).bus.room = true ∧
    (∃ e ∈ [(⟨1, 2, 3, true⟩ : InitEntry)], e.enabled = true) ∧ 16 < 8 * Rate.r192.multiple := 
  ⟨ready (by decide), by decide, by decide, by decide, by decide, by decide, by decide⟩

/-- STOP_PORT with the port's own INIT job active. -/
theorem witness_stop_port : (run (.startPort 0 [0]) (run (.setInitList 0 [0, 1, 0x1A, 2, 3, 1]) (roles up))).bus.active.map Job.kind =
    some (.init 0 [⟨0, 0x1A, 2, 3⟩] false) := by decide

theorem witness_ports_boundary : ∀ k ∈ [some 0, some 3], (up.putPort 5 { Port.reset with role := .capture, state := .settling, remaining := k }).resetN =
    true ∧ ((up.putPort 5 { Port.reset with role := .capture, state := .settling, remaining := k }).port 5).map Port.remaining = some k := by decide

theorem witness_playout : (atN 10 (withPlay playing (withPorts up))).framesRun ∧ (atN 10 (withPlay playing (withPorts up))).noCueDue ∧
    (atN 10 (withPlay playing (withPorts up))).stream 0 = some playing ∧ playing.desc.map[1]? = some ⟨0, 1⟩ ∧ playing.desc.map.Nodup ∧
    playing.lastOut.length = playing.desc.map.length ∧
    (∀ j st', j ≠ 0 → (atN 10 (withPlay playing (withPorts up))).stream j = some st' → st'.desc.direction = .play →
      (⟨0, 1⟩ : PortSlot) ∉ st'.desc.map) ∧
    ((atN 10 (withPlay playing (withPorts up))).port 0).map (fun p => (p.role, p.state, p.slots)) = some (.playback, .running, 2) ∧
    playing.stop ≠ some 10 ∧ playing.muted = false ∧ playing.start = some 0 :=
  ⟨⟨by decide, by decide⟩, no_cue (by decide), by decide, by decide, by decide, by decide,
    fun j st' hj hs => by
      have := stream_none (h := atN 10 (withPlay playing (withPorts up))) (i := 0) (by decide) (by decide) j hj
      simp [this] at hs,
    by decide, by decide, by decide, by decide⟩

/-- Transactions at their limits, with the bus free and with a job active; and eight jobs waiting. -/
theorem witness_job_queue : up.Ready ∧ up.bus.active = none ∧ up.bus.releasing = false ∧ busy.Ready ∧ busy.bus.active ≠ none ∧
    busy.bus.waiting.length < 8 ∧ (List.replicate 16 (0 : Byte)).length ≤ 16 :=
  ⟨ready (by decide), by decide, by decide, ready (by decide), by decide, by decide, by decide⟩

/-- Behind an XFER job and a CUE job, the CUE job is chosen. -/
def queued : ControlBus :=
  { ControlBus.reset with waiting := [⟨.xfer 1 0 (.probe 1), false, false, 0⟩, ⟨.cue 9 5 6 true true false 1 [2], false, false, 0⟩] }

theorem witness_arbiter : queued.waiting = [⟨.xfer 1 0 (.probe 1), false, false, 0⟩] ++ ⟨.cue 9 5 6 true true false 1 [2], false, false, 0⟩ :: [] ∧
    (JobKind.cue 9 5 6 true true false 1 [2]).isCue = true ∧ ∀ k ∈ [(⟨.xfer 1 0 (.probe 1), false, false, 0⟩ : Job)], k.kind.isCue = false := by
  decide

theorem witness_abort : busy.Ready ∧ busy.bus.active.map Job.kind = some (.xfer 0x0201 0 (.read 0x1A 9 1)) ∧
    (run (.converterXfer 5 [2, 1, 0, 0]) busy).bus.waiting.map Job.kind = [.xfer 5 1 (.probe 1)] ∧
    (run (.converterXfer 5 [2, 1, 0, 0]) busy).link.held = [0, 1] ∧ (run (.converterXfer 5 [2, 1, 0, 0]) busy).Ready :=
  ⟨ready (by decide), by decide, by decide, by decide, ready (by decide)⟩

/-- The active job ends DONE, at an address and at a byte; an INIT job of two entries goes on from its first. -/
theorem witness_transaction : busy.resetN = true ∧ (Transaction.read 0x1A 9 1).wire (.done [5]) ≠ none ∧
    (Transaction.read 0x1A 9 1).wire (.noAckAddress true) ≠ none ∧ (Transaction.read 0x1A 9 1).wire (.noAckData 0) ≠ none ∧
    busy.bus.active.bind Job.transaction = some (.read 0x1A 9 1) ∧ busy.bus.active.map Job.recovery = some false ∧ busy.link.held = [0] ∧
    (⟨.init 0 [⟨0, 1, 2, 3⟩, ⟨2, 1, 4, 5⟩] false, false, false, 0⟩ : Job).transaction = some (.write 1 [2, 3]) ∧
    (⟨.cue 9 5 6 true true false 1 [2], false, false, 0⟩ : Job).transaction = some (.write 1 [2]) ∧
    (Transaction.write 1 [2, 3]).wire (.noAckData 1) ≠ none := by decide

/-- A marked job, a job in recovery, and a bus being released. -/
theorem witness_bus_failures : (run (.abortXfer 0 [1, 2]) busy).bus.active.map (fun j => (j.ending, j.recovery)) = some (true, false) ∧
    (run (.converterXfer 7 [2, 0x1A, 0, 0]) (run .busStuck busy)).bus.active.map (fun j => (j.ending, j.recovery)) = some (false, true) ∧
    (run (.converterXfer 7 [2, 0x1A, 0, 0]) (run .busStuck busy)).link.held = [1] ∧
    (run (.resetPart 0 []) busy).bus.releasing = true ∧ (run (.resetPart 0 []) busy).bus.active = none := by decide +kernel

/-! ### Witnesses: chapters 9 and 10 -/

theorem witness_set_node : up.Ready ∧ (∀ st ∈ [NodeState.disabled, .online, .offline, .halted],
    (up.putNode 16 { onlineNode with state := st }).node 16 = some { onlineNode with state := st }) ∧
    (run (.resetNode 5 [16]) (up.putNode 16 onlineNode)).link.held = [0] ∧
    ((run (.resetNode 5 [16]) (up.putNode 16 onlineNode)).node 16).map Node.resetCommand = some (some ⟨5, 0⟩) ∧
    (run (.resetNode 5 [16]) (up.putNode 16 onlineNode)).Ready :=
  ⟨ready (by decide), by decide, by decide, by decide, ready (by decide)⟩

/-- A queue with the key in flight, without it, and full. -/
theorem witness_surface_write : (up.putNode 16 { onlineNode with queue := [⟨63, .motor, 5, true, false⟩] }).Ready ∧ 1023 ≤ SettingKind.motor.limit ∧
    (∃ w ∈ [(⟨63, .motor, 5, true, false⟩ : Setting)], w.control = 63 ∧ w.kind = .motor) ∧
    (∀ w ∈ [(⟨63, .motor, 5, true, false⟩ : Setting)], ¬ (w.control = 62 ∧ w.kind = .motor)) ∧
    32 ≤ ((numbers 0 32).map (fun c => (⟨c, .led, 1, false, false⟩ : Setting))).length ∧
    ∀ w ∈ (numbers 0 32).map (fun c => (⟨c, .led, 1, false, false⟩ : Setting)), ¬ (w.control = 62 ∧ w.kind = .led) :=
  ⟨ready (by decide), by decide, by decide, by decide, by decide, by decide⟩

theorem witness_round : up.resetN = true ∧ up.surface.exchange = none ∧ up.surface.cursor = 17 := by decide

theorem witness_visit : ∀ n ∈ [onlineNode, { onlineNode with resetPending := true },
      { onlineNode with queue := [⟨5, .motor, 9, false, false⟩, ⟨6, .led, 1, false, false⟩] },
      { Node.reset with state := .offline, rounds := 16 }, { Node.reset with state := .halted, resetCommand := some ⟨5, 0⟩, resetPending := true }],
    (round n).surface.exchange = none ∧ (round n).surface.cursor ≤ 16 ∧ 1 ≤ (round n).surface.cursor ∧ (round n).node 16 = some n ∧
      n.visited = true ∧ ∀ b ∈ numbers 1 15, ((round n).node b).map Node.visited = some false := by decide

theorem witness_answers : ExchangeKind.poll.answers packetReport = true ∧ formFits packetReport [0, 4, 3, 1, 0] = true ∧
    formFits packetReport (0 :: List.replicate 60 0) = true ∧ formFits packetReport [2] = false ∧ ExchangeKind.poll.answers packetAck = false ∧
    (0 : Byte) ≠ typeByte ((0 : Byte).toNat % 16) := by decide

/-- Valid answers to each kind of exchange with an ONLINE node. -/
theorem witness_exchange : ∀ p ∈ [(ExchangeKind.reset, packetAck, []), (.write, packetAck, []), (.write, packetNak, []), (.poll, packetNak, []),
      (.poll, packetReport, [(0 : Byte)]), (.poll, packetReport, [(1 : Byte)])],
    (awaiting p.1 onlineNode up).resetN = true ∧ (awaiting p.1 onlineNode up).node 3 = some onlineNode ∧ onlineNode.state = .online ∧
      judge 3 p.1.answers (cleanAnswer (packetOf p.2.1 3 p.2.2)) = .valid p.2.1 p.2.2 := by decide +kernel

/-- Errors, babble and HALTED; an allowance with and without room. -/
theorem witness_faults : judge 3 ExchangeKind.poll.answers (cleanAnswer []) = .timeout ∧
    judge 3 ExchangeKind.poll.answers { cleanAnswer (packetOf packetNak 3 []) with startAfter := true } = .babble ∧
    judge 3 ExchangeKind.poll.answers (cleanAnswer (packetOf packetHalted 3 [])) = .valid packetHalted [] ∧ 2 ≤ onlineNode.allowance ∧
    onlineNode.resetCommand = none ∧ (awaiting .poll { onlineNode with allowance := 1 } up).node 3 = some { onlineNode with allowance := 1 } := by
  decide +kernel

theorem witness_probe : ∀ t ∈ [packetAck, packetHalted, 15], judge 3 ExchangeKind.probe.answers (cleanAnswer (packetOf t 3 [])) = .valid t [] ∧
    (awaiting .probe { Node.reset with state := .offline } up).node 3 = some { Node.reset with state := .offline } := by decide +kernel

theorem witness_reset_visit : (run (.resetNode 5 [3]) (awaiting .resetVisit { Node.reset with state := .halted } up)).link.held = [0] ∧
    ((run (.resetNode 5 [3]) (awaiting .resetVisit { Node.reset with state := .halted } up)).node 3).map Node.resetCommand =
      some (some ⟨5, 0⟩) := by decide

theorem witness_binding : trigger.fits ∧ up.Ready ∧ 31 < 32 ∧ 32 < 256 :=
  ⟨⟨⟨by decide, by decide, by decide⟩, fun q hq => (by cases hq), (by decide : 0 < 16)⟩, ready (by decide), by decide, by decide⟩

/-- A report with one event of each kind, of a control in range and of one above, is accepted; the binding of control 4 is met. -/
theorem witness_event :
    (∀ k ∈ [(1 : Byte), 2, 3], judge 3 ExchangeKind.poll.answers (cleanAnswer (packetOf packetReport 3 [0, 4, k, 1, 0])) =
      .valid packetReport [flagByte onlineNode.toggle, 4, k, 1, 0]) ∧
    (∀ k ∈ [(4 : Byte), 9], judge 3 ExchangeKind.poll.answers (cleanAnswer (packetOf packetReport 3 [0, 4, k, 1, 0])) =
      .valid packetReport [flagByte onlineNode.toggle, 4, k, 1, 0]) ∧
    judge 3 ExchangeKind.poll.answers (cleanAnswer (packetOf packetReport 3 [0, 64, 3, 1, 0])) =
      .valid packetReport [flagByte onlineNode.toggle, 64, 3, 1, 0] ∧
    (awaiting .poll onlineNode up).node 3 = some onlineNode :=
  ⟨by decide +kernel, by decide +kernel, by decide +kernel, by decide⟩

theorem witness_event_bound : trigger.meets 3 4 true ∧ trigger.qualifier = none ∧ trigger.action = .streamTrigger 0 ∧
    (run (.setBinding 0 (trigger.bytes 31)) up).surface.bindings = List.replicate 31 none ++ some trigger :: [] ∧
    ∀ d, (some d ∈ List.replicate 31 (none : Option Binding) ∨ some d ∈ ([] : List (Option Binding))) → ¬ d.meets 3 4 true :=
  ⟨⟨rfl, rfl⟩, rfl, rfl, by decide +kernel, fun d h => by simp at h⟩

/-! ### Witnesses: chapters 11 to 13 -/

theorem witness_meters : up.Ready ∧ up.meter 31 = some Meter.reset ∧ 1 ≤ 8388607 ∧ 2 ^ 22 ≤ 8388607 ∧ 8388607 < 2 ^ (22 + 1) :=
  ⟨ready (by decide), by decide, by decide, by decide, by decide⟩

/-- A meter with a source at a period end (N = 1,024 is twice 512) and between two. -/
def metered (n : Nat) : Hub := atN n (withPorts (up.putMeter 31 { Meter.reset with source := some ⟨1, 1⟩, d16 := 32, peak := 1 }))

theorem witness_meter_boundary : (metered 1024).framesRun ∧ (metered 1024).noCueDue ∧ ((metered 1024).meter 31).map Meter.source = some (some ⟨1, 1⟩) ∧
    0 < 1024 ∧ 1024 % (512 * (metered 1024).clock.rate.multiple) = 0 ∧ 1025 % (512 * (metered 1025).clock.rate.multiple) ≠ 0 ∧
    16 * levelIndex 1 < 32 :=
  ⟨⟨by decide, by decide⟩, no_cue (by decide), by decide, by decide, by decide, by decide, by decide⟩

/-- A display on an ONLINE node and on one that is not; a level watch that is met, and one a step short. -/
theorem witness_display : (up.putNode 16 onlineNode).node 16 = some onlineNode ∧ up.node 16 = some Node.reset ∧
    ((({ Meter.reset with display := some ⟨16, 63, 32⟩ } : Meter).display) = some ⟨16, 63, 32⟩) ∧
    (withPlay { capturing 0 with desc := { dCapture with watch := some ⟨31, 92⟩ } } up).stream 0 =
      some { capturing 0 with desc := { dCapture with watch := some ⟨31, 92⟩ } } := by decide

theorem witness_reports : (roles up).Ready ∧ (withPlay playing up).stream 0 = some playing ∧ up.port 5 = some Port.reset ∧
    up.node 16 = some Node.reset ∧ up.meter 31 = some Meter.reset :=
  ⟨ready (by decide), by decide, by decide, by decide, by decide⟩

theorem witness_refused : handlerOf 0x22 = some triggerStream ∧
    triggerStream up ⟨0, 0⟩ [9] = (up, .reply .noSuch []) ∧ (Status.noSuch ≠ .ok) := ⟨rfl, by decide +kernel, by decide⟩

/-- An idle assembly; a paused command with an entry free again; sixteen entries held. -/
theorem witness_inbound : up.resetN = true ∧ up.link.configured = true ∧ up.link.paused = none ∧ up.link.assembly = .gather [] ∧
    up.link.behind = [] ∧ up.link.behindEnds = false ∧ up.link.entriesHeld < 16 ∧ up.link.serial ∉ up.link.held ∧ crowded.link.entriesHeld = 16 ∧
    crowded.link.paused = none ∧ (run .transmitTake (run (.getClock 5 []) crowded)).link.paused = some ⟨0x02, 5, []⟩ ∧
    (run .transmitTake (run (.getClock 5 []) crowded)).link.entriesHeld < 16 := by decide +kernel

/-- Headers that fail each check: a wrong check nibble, a length of 16,401, a kind that is not inbound, a body cut short. -/
theorem witness_framing : (0 : Byte) ≠ kindByte ((0 : Byte).toNat % 16) ∧ 16400 < fieldAt [0, 0, 0, 0x11, 0x40] 3 2 ∧
    (0x69 : Byte) = kindByte ((0x69 : Byte).toNat % 16) ∧ (0x69 : Byte).toNat % 16 ≠ 1 ∧ (0x69 : Byte).toNat % 16 ≠ 2 ∧
    [(0x22 : Byte), 0, 0, 2, 0].length < 5 + fieldAt [0x22, 0, 0, 2, 0] 3 2 ∧ fieldAt [0x22, 0, 0, 2, 0] 3 2 ≤ 16400 := by decide

theorem witness_records : metronome.fits ∧ train.fits ∧ dPlay.fits ∧ dCapture.fits ∧ trigger.fits ∧ 258 < 256 ^ 2 :=
  ⟨metronome_fits, train_fits, play_fits, capture_fits, witness_binding.1, by decide⟩

/-! ### Witnesses: the conditions that every step keeps -/

theorem witness_step : step ⟨up, [.frameBoundary 512 []]⟩ = .next ⟨run (.frameBoundary 512 []) up, []⟩ := rfl

/-- The reset state meets every condition that the steps keep. -/
theorem witness_kept : Hub.reset.clock.correctionFits ∧ Hub.reset.link.noticesFit ∧ Hub.reset.link.entriesFit ∧ Hub.reset.cuesFit ∧
    Hub.reset.bus.fits ∧ Hub.reset.tablesFit ∧ poolWf Hub.reset.engine.pool = true := by
  refine ⟨⟨⟨by decide, by decide, by decide⟩, ⟨by decide, by decide, by decide⟩⟩, ⟨by decide, by decide⟩, ⟨by decide, by decide, by decide⟩,
    ⟨by decide, by decide, by decide, by decide⟩, ⟨by decide, by decide, by decide, by decide⟩, ?_, by decide⟩
  exact ⟨by decide, by decide +kernel, by decide, by decide, by decide, by decide, by decide, by decide⟩

/-- A part with a PLAY stream running meets the conditions on the stream table. -/
theorem witness_streams_kept : (withPlay playing up).tablesFit ∧ (withPlay playing up).engine.claimsFit ∧ (withPlay playing up).engine.allowancesFit ∧
    (withPlay playing up).descriptorsFit ∧ (withPlay playing up).windowFits ∧ (withPlay playing up).cuesFit := by
  refine ⟨⟨by decide, by decide +kernel, by decide, by decide, by decide, by decide, by decide, by decide⟩, by unfold StreamEngine.claimsFit; decide,
    ?_, ?_, ?_, ⟨by decide, by decide, by decide, by decide⟩⟩
  · intro st hs
    obtain ⟨i, hi⟩ := List.mem_iff_getElem?.1 hs
    by_cases h0 : i = 0
    · subst h0
      have : (withPlay playing up).engine.streams[0]? = some (some playing) := by decide
      rw [this] at hi
      cases hi
      exact ⟨by decide, by decide⟩
    · have := stream_none (h := withPlay playing up) (i := 0) (by decide) (by decide) i h0
      simp [Hub.stream, hi] at this
  · intro i st hs
    by_cases h0 : i = 0
    · subst h0
      have : (withPlay playing up).stream 0 = some playing := by decide
      rw [this] at hs
      cases hs
      exact play_fits
    · rw [stream_none (h := withPlay playing up) (i := 0) (by decide) (by decide) i h0] at hs
      cases hs
  · intro i st hs _ _ c hc
    by_cases h0 : i = 0
    · subst h0
      have : (withPlay playing up).stream 0 = some playing := by decide
      rw [this] at hs
      cases hs
      cases hc
    · rw [stream_none (h := withPlay playing up) (i := 0) (by decide) (by decide) i h0] at hs
      cases hs

/-! ### Witnesses: single clauses -/

/-- For PartResets: a job on the bus, an exchange that has stamped its report, an output in a period. -/
theorem witness_reset_clauses : busy.Ready ∧ busy.bus.active ≠ none ∧ busy.bus.release = none ∧ (awaiting .poll onlineNode up).Ready ∧
    (awaiting .poll onlineNode up).surface.exchange.map Exchange.stamp = some (some 40) ∧ (withOut (outIn .running .m4 none (some ⟨.m4, false⟩))).Ready :=
  ⟨ready (by decide), by decide, by decide, ready (by decide), by decide, ready (by decide)⟩

/-- For LinkEvents: a body without a key, with 31 and with 32 notices waiting, and one whose key waits between two others. -/
theorem witness_posts : (NoticeBody.portState 1 .off .start none 0).key = none ∧ (List.replicate 31 (0 : Nat)).length < 32 ∧
    (NoticeBody.clip 5 9).key ≠ none ∧ (NoticeBody.clip 5 8).key = (NoticeBody.clip 5 9).key ∧
    ∀ v ∈ [(⟨1, .clip 4 9⟩ : Notice)] ++ [⟨1, .linkError .badKind⟩], v.body.key ≠ (NoticeBody.clip 5 9).key := by decide +kernel

/-- For RateMeasurementComplete and StartsOfFrame: a window whose mean lies in the pull range, and a steered correction that does. -/
theorem witness_pull : withinPull (ratioOver (ratioPlus ⟨130560, 1⟩ (ratioTimes nominal 512)) (130560 + 512)) ∧ withinPull (framed .locked).clock.steered :=
  ⟨⟨by decide, by decide, by decide⟩, ⟨by decide, by decide, by decide⟩⟩

/-- For ClockOutputEvents: M/4 with its wait met at 4 cycles, unmet at 3, and waived; and periods that end at each kind of change. -/
theorem witness_output_waits : 0 < Choice.m4.divisor ∧ (0 + 4) % 16 % Choice.m4.divisor = 0 ∧ Choice.m4.divisor ≤ 0 + 4 ∧ ¬ Choice.m4.divisor ≤ 0 + 3 ∧
    ∀ c ∈ [PendingChange.none, .within, .across], ∀ n ∈ [(⟨.word, false⟩ : OutSetting), ⟨.m8, true⟩, ⟨.m8, false⟩, ⟨.m4, false⟩, ⟨.off, false⟩],
      (withOut { outIn .running .m4 (some n) (some ⟨.m4, false⟩) with change := c }).out 3 =
        some { outIn .running .m4 (some n) (some ⟨.m4, false⟩) with change := c } ∧
      n = (outIn .running .m4 (some n) (some ⟨.m4, false⟩)).staged.getD ⟨.m4, false⟩ := by decide +kernel

/-- For ClockOutputsAtABoundary: WORD with 512 cycles since the last boundary, held for 512 and for 511; without a boundary before; and M/16 at a
divider of 0 and of 1. -/
theorem witness_word_waits : 256 + 256 ≤ 256 + 256 ∧ ¬ 256 + 256 ≤ 255 + 256 ∧ Choice.word.cycles .r48 = 512 ∧ 16 % Choice.m16.divisor = 0 ∧
    ¬ 1 % Choice.m16.divisor = 0 ∧ (withOut (outIn .starting .word none none)).framesRun ∧ (withOut (outIn .starting .word none none)).cues = [] ∧
    (withOut (outIn .starting .word none none)).outputs.sinceFrame = none :=
  ⟨by decide, by decide, by decide, by decide, by decide, ⟨by decide, by decide⟩, by decide, by decide⟩

/-- For TriggerStream and StopStream: a counted run of 5 frames from 0 is over at 6 and not at 5; a stop before now, and one at now. -/
theorem witness_past : (withPlay { playing with state := .armed, desc := { dPlay with run := .counted 5 } } up).stream 0 =
      some { playing with state := .armed, desc := { dPlay with run := .counted 5 } } ∧ countedEnd (.counted 5) 0 = some 5 ∧ 5 < 6 ∧ 5 ≤ 5 ∧
    (withPlay { capturing 0 with state := .running, dp := some 3, stop := some 9 } up).stream 0 =
      some { capturing 0 with state := .running, dp := some 3, stop := some 9 } ∧ 2 < 3 ∧ max 2 3 ≤ 8 ∧ 8 < max 9 3 := by decide

/-- For PlayBlockPlaced: the mark 10 is held, finds room among three, and meets four, of which the highest is below it and above it. -/
theorem witness_marks : 10 ∈ [10, 11] ∧ 10 ∉ [11, 12, 13] ∧ [11, 12, 13].length < 4 ∧ [1, 2, 3, 4] = [1, 2, 3] ++ [4] ∧ 10 ∉ [1, 2, 3, 4] ∧
    [1, 2, 3, 11] = [1, 2, 3] ++ [11] ∧ 10 ∉ [1, 2, 3, 11] ∧ min (10 + 1) (10 + 256) - 1 = 10 := by decide

/-- For PlayBlockRefused: nine bytes are too short; 1,024 frames of one 16-bit channel keep the shape, and none or 1,025 do not. -/
theorem witness_shapes : (List.replicate 9 (0 : Byte)).length < 10 ∧ (1 ≤ 1024 ∧ 1024 ≤ 1024 ∧ 2048 = 1024 * 1 * Format.width .s16 ∧ 2048 ≤ 16384) ∧
    ¬ 1 ≤ 0 ∧ ¬ 1025 ≤ 1024 := by decide

/-- For PlayStreamAtABoundary: a report mark at the frame that begins. -/
theorem witness_mark_taken : (atN 10 (withPlay { playing with marks := [10, 12] } up)).stream 0 = some { playing with marks := [10, 12] } ∧
    (atN 10 (withPlay { playing with marks := [10, 12] } up)).clock.n = 10 := by decide

/-- For CaptureAtABoundary: every state of the stream, its last stop, an allowance of 1, its port, and a pool that no other stream shares. -/
theorem witness_capture_clauses : (∀ st ∈ [StreamState.idle, .armed, .running, .draining, .halted],
      (atN 4096 (withPlay { capturing 0 with state := st, dp := some 0, stop := some 4096, allowance := 1 } (withPorts up))).stream 0 =
        some { capturing 0 with state := st, dp := some 0, stop := some 4096, allowance := 1 }) ∧
    dCapture.watch = none ∧ (∀ e ∈ dCapture.map, e.port < 6) ∧ dCapture.reload ≠ 0 ∧ 0 + dCapture.capacity = 4096 ∧
    ∀ j, j ≠ 0 → (atN 4096 (withPlay (capturing 0) (withPorts up))).stream j = none :=
  ⟨by decide +kernel, by decide, by decide, by decide, by decide, fun j hj => stream_none (by decide) (by decide) j hj⟩

/-- For TransmitTake: a running stream offers 512 frames once they are written, and a draining one its last 40, FINAL. -/
theorem witness_offers : Stream.offersBlock { capturing 0 with state := .running, dp := some 0 } 0 512 ⟨0, 0, 512, false⟩ ∧
    Stream.offersBlock { capturing 0 with state := .draining, dp := some 0, stop := some 40 } 0 512 ⟨0, 0, 40, true⟩ ∧
    (offering .running none).engine.streams.length = 16 ∧
    ∀ i st, (offering .draining (some 40)).stream i = some st → st.state = .draining → st.stop ≠ none :=
  ⟨⟨rfl, 0, 512, rfl, rfl, .inl ⟨rfl, by decide, rfl⟩⟩, ⟨rfl, 0, 512, rfl, rfl, .inr ⟨rfl, 40, rfl, .inr ⟨by decide, rfl⟩⟩⟩, by decide,
    fun i st hs _ => by
      by_cases h0 : i = 0
      · subst h0
        have : (offering .draining (some 40)).stream 0 = some { capturing 0 with state := .draining, start := some 0, dp := some 0, stop := some 40 } := by
          decide
        rw [this] at hs
        cases hs
        simp
      · rw [stream_none (h := offering .draining (some 40)) (i := 0) (by decide) (by decide) i h0] at hs
        cases hs⟩

/-- A cue of an action that is due at 5, alone. -/
def alone (a : CueAction) (h : Hub) : Hub := (atN 5 h).withCues [late a]

/-- For CuesAtABoundary: such a cue, over a stream in each state, an ONLINE and an OFFLINE node, and each other thing that an action names. -/
theorem witness_alone (a : CueAction) (h : Hub) (hf : h.framesRun) (ha : a.fits) : (alone a h).framesRun ∧ (alone a h).cuesFit ∧
    (alone a h).cues = late a :: [] ∧ (late a).due = (alone a h).clock.n ∧ (late a).fits ∧ (alone a h).clock.n = 5 :=
  ⟨hf, ⟨by show 1 ≤ 64; decide, List.pairwise_singleton .., by simp [alone, Hub.withCues], by simp [alone, Hub.withCues, atN, Hub.withClock, late]⟩, rfl, rfl,
    (witness_late_fits a ha).1, rfl⟩

theorem witness_alone_states : (∀ st ∈ [StreamState.idle, .armed, .running, .draining],
      (alone (.streamStop 0) (withPlay { playing with state := st, stop := some 6 } up)).stream 0 = some { playing with state := st, stop := some 6 }) ∧
    (alone (.streamTrigger 0) (withPlay (capturing 3) up)).stream 0 = some (capturing 3) ∧ (alone (.streamTrigger 1) up).stream 1 = none ∧
    (alone (.converterWrite 1 [2]) up).bus.room = true ∧ (alone (.surfaceWrite 16 1 .led 1) (up.putNode 16 onlineNode)).node 16 = some onlineNode ∧
    (alone (.surfaceWrite 16 1 .led 1) up).node 16 = some Node.reset ∧
    ((alone (.tallyStop 3) (withTally .active (some 9) none 5)).tally 3).map Tally.state = some .active ∧
    ((alone .clearClips up).meter 31).map Meter.source = some none ∧ (alone .clearClips up).engine.streams.length = 16 := by decide +kernel

/-- For TransactionEnds: a detached INIT job under its ending mark, and addresses and data at their limits. -/
theorem witness_detached : (run (.stopPort 0 [0]) (run (.startPort 0 [0]) (run (.setInitList 0 [0, 1, 0x1A, 2, 3, 1]) (roles up)))).bus.active =
      some ⟨.init 0 [⟨0, 0x1A, 2, 3⟩] true, true, false, 0⟩ ∧
    (⟨.init 0 [⟨0, 0x1A, 2, 3⟩] true, true, false, 0⟩ : Job).transaction = some (.write 0x1A [2, 3]) ∧
    (Transaction.write 0x1A [2, 3]).wire (.done []) ≠ none ∧ 127 ≤ 127 ∧ 16 = (List.replicate 15 (0 : Byte)).length + 1 := by decide

/-- For BusFailures: a job of each kind, marked and not, in recovery and not; recoveries cut at 8 pulses and complete at 9; a release; and what the
lines showed when the last byte was sent and when it was read. -/
theorem witness_job_ends : (∀ k ∈ [JobKind.xfer 5 0 (.read 0x1A 9 2), .cue 9 5 6 true true false 1 [2], .init 0 [⟨0, 1, 2, 3⟩] false,
      .init 0 [⟨0, 1, 2, 3⟩] true], ∀ e ∈ [true, false], ∀ r ∈ [true, false],
      (busy.withBus { busy.bus with active := some ⟨k, e, r, 0⟩ }).bus.active = some ⟨k, e, r, 0⟩) ∧ 0 ∈ busy.link.held ∧ 8 < 9 ∧ 9 ≤ 9 ∧
    (roles up).port 0 = some { Port.reset with role := .playback } ∧ (run (.resetPart 0 []) busy).bus.release.isSome = true ∧
    ((Transaction.read 0x1A 9 2).items [7]).take 2 = [.sent 0x34 true] ++ [.sent 9 true] ∧
    ((Transaction.read 0x1A 9 2).items [7]).take 5 =
      [.sent 0x34 true, .sent 9 true, .repeatedStart, .sent 0x35 true] ++ [.received 7 false] := by decide +kernel

/-- For AnswersAreJudged: a POLL answer cut after its first character, a low stop bit, a gap, and a length byte of 65. -/
theorem witness_bad_answers : packetOf packetNak 3 [] = [typeByte packetNak] ++ (packetOf packetNak 3 []).drop 1 ∧
    (packetOf packetNak 3 []).drop 1 ≠ [] ∧ (⟨0, false, false⟩ : LineChar).stopHigh = false ∧ (⟨0, true, true⟩ : LineChar).gapBefore = true ∧
    64 < (65 : Byte).toNat ∧ packetNak < 16 := by decide +kernel

/-- Node 3 holds the reset command 5, and the part awaits the answer to a RESET sent for it, or sent before it was taken. -/
def resetting (forCommand : Bool) : Hub :=
  let h := run (.resetNode 5 [3]) (awaiting .reset onlineNode up)
  h.withSurface { h.surface with exchange := h.surface.exchange.map (fun x => { x with forCommand := forCommand }) }

/-- For ExchangeAnswered and ExchangeFaults: NAK, an error and babble while a reset command is held. -/
theorem witness_reset_held : ∀ f ∈ [true, false], (resetting f).surface.exchange = some ⟨3, .reset, false, f, some 40⟩ ∧
    ((resetting f).node 3).map (fun n => (n.state, n.resetCommand, n.allowance)) = some (.online, some ⟨5, 0⟩, 3) ∧ (resetting f).link.held = [0] ∧
    judge 3 ExchangeKind.reset.answers (cleanAnswer (packetOf packetNak 3 [])) = .valid packetNak [] ∧
    judge 3 ExchangeKind.reset.answers (cleanAnswer (packetOf packetHalted 3 [])) = .valid packetHalted [] := by decide +kernel

/-- For SurfaceEvents: two events in one report; a qualifier that is pressed and one that is not; and what each action names. -/
theorem witness_events : judge 3 ExchangeKind.poll.answers (cleanAnswer (packetOf packetReport 3
      (flagByte onlineNode.toggle :: [((4 : Byte), (3 : Byte), (1 : Byte), (0 : Byte)), (63, 1, 255, 3)].flatMap (fun e => [e.1, e.2.1, e.2.2.1, e.2.2.2])))) =
      .valid packetReport (flagByte onlineNode.toggle :: [((4 : Byte), (3 : Byte), (1 : Byte), (0 : Byte)), (63, 1, 255, 3)].flatMap
        (fun e => [e.1, e.2.1, e.2.2.1, e.2.2.2])) ∧ (awaiting .poll onlineNode up).node 3 = some onlineNode ∧
    trigger.fires (awaiting .poll onlineNode up) 3 4 1 ∧ Binding.fires { trigger with qualifier := some ⟨3, 7⟩ } (awaiting .poll onlineNode up) 3 4 1 ∧
    ¬ Binding.fires { trigger with edge := .release } (awaiting .poll onlineNode up) 3 4 1 ∧ (withPlay playing up).stream 0 = some playing ∧
    (withPlay (capturing 0) up).stream 0 = some (capturing 0) ∧ (up.withCues [metronome]).cues = [] ++ metronome :: [] :=
  ⟨by decide +kernel, by decide, ⟨rfl, .inl ⟨rfl, rfl⟩, fun q h => nomatch h⟩,
    ⟨rfl, .inl ⟨rfl, rfl⟩, fun q h => by cases h; exact ⟨onlineNode, by decide, by decide⟩⟩,
    fun h => (by rcases h.2.1 with ⟨h, _⟩ | ⟨_, h⟩ <;> exact absurd h (by decide)), by decide, by decide, rfl⟩

/-- For MetersAtABoundary: a third sample at the threshold completes the clip run. -/
theorem witness_clip : let m : Meter := { Meter.reset with source := some ⟨1, 1⟩, threshold := 1, run := 2 }
    m.run < m.clipRun ∧ ((run (.frameBoundary 512 [[], [0, 0x00000100]]) (withPorts (up.putMeter 31 m))).meter 31).map Meter.run = some m.clipRun := by
  decide +kernel

/-- For DisplaysAndLevelWatches: a metered display on an ONLINE node and on one that is not, at a period end; a watch met by the peak 1, and not. -/
theorem witness_period_end : let h := (metered 1024).putMeter 31 { Meter.reset with source := some ⟨1, 1⟩, peak := 1, display := some ⟨16, 63, 32⟩ }
    h.framesRun ∧ h.cues = [] ∧ (0 < h.clock.n ∧ h.clock.n % (512 * h.clock.rate.multiple) = 0) ∧ (h.putNode 16 onlineNode).node 16 = some onlineNode ∧
    h.node 16 = some Node.reset ∧ levelIndex 1 = 1 ∧ ¬ 2 ≤ levelIndex 1 ∧ 512 + 512 * h.clock.rate.multiple = h.clock.n ∧
    (0 : Int) = max (max ((512 : Int) - 2000) (0 : Nat)) ((1024 : Int) - 4096 + 512) :=
  ⟨⟨by decide, by decide⟩, by decide, by decide, by decide, by decide, by decide, by decide, by decide, by decide⟩

/-- For RefusedCommandsChangeNothing: values just out of range, of the right length, and one just in range. -/
theorem witness_values : valueOut 0x01 [3, 0] ∧ ¬ valueOut 0x01 [2, 5] ∧ valueOut 0x50 [17, 1, 3, 1] ∧ valueOut 0x31 [0, 0] ∧ up.tablesFit ∧
    (BodyShape.fixed 2).holds [3, 0] ∧ shapeOf 0x01 = some (.fixed 2) := by
  refine ⟨?_, ?_, ?_, ?_, ⟨by decide, by decide +kernel, by decide, by decide, by decide, by decide, by decide, by decide⟩, rfl, rfl⟩
  · show 2 < byteAt [3, 0] 0 ∨ 5 < byteAt [3, 0] 1
    decide
  · show ¬ (2 < byteAt [2, 5] 0 ∨ 5 < byteAt [2, 5] 1)
    decide
  · show notNode (byteAt [17, 1, 3, 1] 0) ∨ _
    exact .inl (by unfold notNode; decide)
  · show fieldAt [0, 0] 0 2 = 0
    decide

/-- For InboundMessages: a GET_CLOCK cut after three bytes; two messages in one packet, with a free entry after the first and without; and a
message behind a paused command. -/
theorem witness_packets : messageBytes 1 0x02 5 [] = (messageBytes 1 0x02 5 []).take 3 ++ (messageBytes 1 0x02 5 []).drop 3 ++ [] ∧
    (messageBytes 1 0x02 5 []).drop 3 ≠ [] ∧ (messageBytes 1 0x20 5 (List.replicate 600 0)).length = 512 + 94 ∧
    (messageBytes 1 0x02 5 [] ++ messageBytes 1 0x02 6 [] ++ [1, 2]).length ≤ 512 ∧ (run (.getClock 5 []) up).link.entriesHeld < 16 ∧
    (run (.getClock 5 []) (up.withLink { up.link with replies := List.replicate 15 ⟨0x13, 0, .ok, []⟩ })).link.entriesHeld = 16 ∧
    (up.withLink { up.link with paused := some ⟨0x02, 5, []⟩, behind := messageBytes 1 0x02 6 [] }).link.paused = some ⟨0x02, 5, []⟩ := by
  decide +kernel

/-- For TimelineKept: SET_CLOCK on the link carries what may set N to 0, and GET_CLOCK does not do so as a command. -/
theorem witness_zero : mayZeroN up (.outPacket (messageBytes 1 0x01 5 [0, 3])) ∧ mayZeroN up (.setClock 5 [0, 3]) ∧ ¬ mayZeroN up (.getClock 5 []) :=
  ⟨⟨[], messageBytes 1 0x01 5 [0, 3], [], by decide +kernel, by decide +kernel, by decide +kernel, .inl ⟨by decide +kernel, by decide +kernel⟩⟩,
    .inl ⟨rfl, rfl⟩, fun h => h⟩

/-- For SetClock: a rate change while a report has been received and an output is in a period, M/4 and without one. -/
theorem witness_rate_clauses : (awaiting .poll onlineNode (withOut (outIn .running .m4 none (some ⟨.m4, false⟩)))).Ready ∧
    (awaiting .poll onlineNode (withOut (outIn .running .m4 none (some ⟨.m4, false⟩)))).rateFree ∧
    (awaiting .poll onlineNode up).surface.exchange.map Exchange.stamp = some (some 40) ∧
    (awaiting .poll onlineNode (withOut (outIn .running .m4 none (some ⟨.m4, false⟩)))).out 3 = some (outIn .running .m4 none (some ⟨.m4, false⟩)) ∧
    (up.out 3).map ClockOut.period = some none ∧ (.r96 : Rate).family = up.clock.rate.family ∧ (.r44 : Rate).family ≠ up.clock.rate.family :=
  ⟨ready (by decide), ⟨streams_all (by decide +kernel), by decide⟩, by decide, by decide, by decide, by decide, by decide⟩

/-- For StartsOfFrame: with LINK_FRAME, a lock run of 63 that an event within bound completes and one out of bound does not, an anchor and none, and
counts of 254 in LOCKED and HOLDOVER. -/
theorem witness_link_events : (∀ st ∈ [ClockState.acquiring, .locked, .holdover], ∀ a ∈ [none, some 7],
      let h := up.withClock { up.clock with source := .linkFrame, state := st, lockRun := 63, refRun := 254, anchor := a }
      h.resetN = true ∧ h.clock.source = .linkFrame ∧ h.clock.state = st ∧ h.clock.anchor = a ∧ h.clock.refRun < 255 ∧
        h.link.configured = true ∧ h.link.lastFrame ≠ some 5) ∧ withinBound ⟨1, 64⟩ = true ∧ withinBound ⟨1, 63⟩ = false ∧
    min 64 (63 + 1) = 64 := by decide

/-- For ClockOutputsAtABoundary: a WORD period that ends with each staged setting, one in an abandoned frame, an M/4 period, and QUIET. -/
theorem witness_word_ends : (∀ st ∈ [OutState.running, .closing], ∀ n ∈ [none, some (⟨.word, true⟩ : OutSetting), some ⟨.off, false⟩, some ⟨.m16, false⟩],
      (withOut (outIn st .word n (some ⟨.word, false⟩))).out 3 = some (outIn st .word n (some ⟨.word, false⟩)) ∧
      (outIn st .word n (some ⟨.word, false⟩)).change = .none) ∧
    (withOut { outIn .running .word none (some ⟨.word, false⟩) with change := .within }).out 3 =
      some { outIn .running .word none (some ⟨.word, false⟩) with change := .within } ∧
    (outIn .running .m4 none (some ⟨.m4, false⟩)).period = some ⟨.m4, false⟩ ∧ (outIn .quiet .off none none).state = .quiet ∧ 0 < 512 := by
  decide +kernel

/-- For TalliesAtABoundary: RUN_TALLY at 2,000, inside a pulse, leaves the unit as the run evaluated there. -/
theorem witness_tally_run : ((run (.runTally 0 [3]) (withTally .stopped none none 2000)).tally 3).map (fun t => (t.state, t.edge)) =
      some (train.evaluate 2000) ∧ (run (.runTally 0 [3]) (withTally .stopped none none 2000)).clock.n = 2000 ∧ train.fits ∧
    (run (.frameBoundary 512 []) (run (.runTally 0 [3]) (withTally .stopped none none 2000))).tally 3 =
      some { settings := some train, staged := none, state := .active, edge := some 2060, pin := false } :=
  ⟨by decide, by decide, train_fits, by decide +kernel⟩

/-- For TransactionEnds: an attached INIT job at its last entry, and at one that is not, with each outcome of a WRITE of two bytes. -/
theorem witness_attached : (busy.withBus { busy.bus with active := some ⟨.init 5 [⟨0, 1, 2, 3⟩, ⟨15, 1, 2, 3⟩] false, false, false, 1⟩ }).bus.active =
      some ⟨.init 5 [⟨0, 1, 2, 3⟩, ⟨15, 1, 2, 3⟩] false, false, false, 1⟩ ∧ [(⟨0, 1, 2, 3⟩ : InitWrite), ⟨15, 1, 2, 3⟩].length = 1 + 1 ∧
    [(⟨0, 1, 2, 3⟩ : InitWrite), ⟨15, 1, 2, 3⟩][1]? = some ⟨15, 1, 2, 3⟩ ∧ busy.port 5 = some Port.reset ∧
    ∀ o ∈ [TxOutcome.done [], .noAckAddress false, .noAckData 0, .noAckData 1], (Transaction.write 1 [2, 3]).wire o ≠ none := by decide +kernel

/-- For BusFailures: a READ of two bytes, stuck in its first byte, in its last, and in a byte the part sends. -/
theorem witness_stuck_bytes : (Job.transaction ⟨.xfer 5 0 (.read 0x1A 9 2), false, false, 0⟩) = some (.read 0x1A 9 2) ∧ 4 = 4 + 0 ∧ 5 = 4 + 1 ∧
    0 < 2 ∧ 1 < 2 ∧ 0 < 9 ∧ ((Transaction.read 0x1A 9 2).items [])[1]? = some (.sent 9 true) := by decide

/-- For StartAndStopPort: a waiting queue from which a port's INIT job leaves; for MeterCommands and Reports: names with a repeat, one and 32 of them. -/
theorem witness_lists : (∀ ws, (⟨.xfer 5 0 (.probe 3), false, false, 0⟩ : Job).kind ≠ .init 0 ws false) ∧
    ¬ (∀ ws, (⟨.init 0 [⟨0, 1, 2, 3⟩] false, false, false, 0⟩ : Job).kind ≠ .init 0 ws false) ∧ (∀ k ∈ [31, 0, 31], k < 32) ∧
    (List.replicate 32 31).length ≤ 32 ∧ 1 ≤ [31].length ∧ (up.meter 31).isSome = true ∧ 2 ∉ [31, 0, 31] :=
  ⟨fun _ h => (nomatch h), fun h => h _ rfl, by decide, by decide, by decide, by decide, by decide⟩

/-- Stream 0 plays over a gap at 10 with a mark there, and these notices wait. -/
def noticed (ns : List Notice) : Hub :=
  let h := atN 10 (withPlay { playing with marks := [10] } up)
  h.withLink { h.link with notices := ns }

/-- For PlayStreamAtABoundary: with no notice of the keys waiting, and with one of each that the boundary updates in its place (R64, R66, R180). -/
theorem witness_notices : (noticed []).framesRun ∧ (noticed []).cues = [] ∧ (noticed []).stream 0 = some { playing with marks := [10] } ∧
    cellGet playing.written (10 % dPlay.capacity) ≠ some 10 ∧
    told (.frameBoundary 512 []) (noticed []) = [⟨11, .streamGap 0 10 1⟩, ⟨11, .played 0 10⟩] ∧
    told (.frameBoundary 512 []) (noticed [⟨5, .played 0 4⟩, ⟨3, .clip 7 2⟩, ⟨6, .streamGap 0 3 5⟩]) =
      [⟨11, .played 0 10⟩, ⟨3, .clip 7 2⟩, ⟨11, .streamGap 0 3 6⟩] :=
  ⟨⟨by decide, by decide⟩, by decide, by decide, by decide, by decide +kernel, by decide +kernel⟩

/-- For MetersAtABoundary: a CLIP of the meter that waits takes the new position in its place, and another meter's stays (R168, R180). -/
theorem witness_clip_waits : let h := (withPorts (up.putMeter 31 { Meter.reset with source := some ⟨1, 1⟩, threshold := 1, run := 2 }))
    told (.frameBoundary 512 [[], [0, 0x00000100]]) (h.withLink { h.link with notices := [⟨0, .clip 31 7⟩, ⟨0, .clip 30 7⟩] }) =
      [⟨1, .clip 31 0⟩, ⟨0, .clip 30 7⟩] ∧
    told (.frameBoundary 512 [[], [0, 0x00000100]]) h = [⟨1, .clip 31 0⟩] := by decide +kernel

/-- For ExchangeAnswered: a duplicate with an event is valid, and is acknowledged and changes no table (R143). -/
theorem witness_duplicate : let dup := cleanAnswer (packetOf packetReport 3 (flagByte (!onlineNode.toggle) :: [4, 3, 1, 0]))
    judge 3 ExchangeKind.poll.answers dup = .valid packetReport (flagByte (!onlineNode.toggle) :: [4, 3, 1, 0]) ∧
    (run (.pollExchangeEnd dup) (awaiting .poll onlineNode up)).surface.lastSent = packetOf packetAck 3 [] ∧
    (run (.pollExchangeEnd dup) (awaiting .poll onlineNode up)).node 3 = some { onlineNode with allowance := onlineNode.reload } := by decide +kernel

/-- For ExchangeFaults: a WRITE with a setting in flight and one replaced ends in an error, which leaves both and clears the marks (R142). -/
theorem witness_write_error : let n := { onlineNode with allowance := 2, queue := [⟨1, .led, 1, true, false⟩, ⟨2, .motor, 9, true, true⟩] }
    (awaiting .write n up).node 3 = some n ∧ 2 ≤ n.allowance ∧ n.resetCommand = none ∧
    ((run .answerTimeout (awaiting .write n up)).node 3).map Node.queue = some [⟨1, .led, 1, false, false⟩, ⟨2, .motor, 9, false, false⟩] := by
  decide +kernel

/-- For ProbesAndResetVisits: a report that answers a probe brings the node back and is not acknowledged (R147). -/
theorem witness_probe_report : let h := awaiting .probe { Node.reset with state := .offline, rounds := 16 } up
    let report := cleanAnswer (packetOf packetReport 3 [0, 4, 3, 1, 0])
    judge 3 ExchangeKind.probe.answers report = .valid packetReport [0, 4, 3, 1, 0] ∧ (h.node 3).map Node.resetCommand = some none ∧
    ((run (.probeEnd report) h).node 3).map Node.state = some .online ∧ (run (.probeEnd report) h).surface.lastSent = h.surface.lastSent := by
  decide +kernel

/-- For PortsAtABoundary: a RUNNING CAPTURE port whose clocks did not run yields as many values as it has slots. -/
theorem witness_unclocked : let h := up.putPort 1 { Port.reset with role := .capture, state := .running, clocked := false }
    ((run (.frameBoundary 512 []) h).port 1).map (fun p => (p.state, p.yielded.length)) = some (.running, 2) := by decide +kernel

/-- For BusFailures: RESET_PART in a recovery lets it make all nine pulses and the stop, however far it had come (R129, R131, R133). -/
theorem witness_release_recovery : let h := run (.resetPart 0 []) (run (.converterXfer 0 [2, 0x1A, 0, 0]) (run .busStuck busy))
    h.bus.release.map Job.recovery = some true ∧ (run (.busReleaseEnd (some ⟨3, true, [], 0⟩)) h).bus.lastWire = List.replicate 9 .pulse ++ [.stop] ∧
    (run .busReleaseEnd h).bus.lastWire = List.replicate 9 .pulse ++ [.stop] := by decide +kernel

/-- Two cues due at 5, the first of which repeats at 8, where a third waits. -/
def crowdedCues : Hub := (atN 5 up).withCues
  [{ late .clearClips with tag := 4, interval := 3, repeats := 1 }, late (.tallyRun 2), { late .clearClips with tag := 7, due := 8 }]

/-- For CuesAtABoundary: they fire in list order, and the repeat goes behind the cue that waits at its position (R91, R95). -/
theorem witness_two_cues : crowdedCues.framesRun ∧ crowdedCues.cuesFit ∧ (run (.frameBoundary 512 []) crowdedCues).cues.map CueEntry.tag = [7, 4] ∧
    told (.frameBoundary 512 []) crowdedCues =
      [⟨6, .cueFired 4 5 5 .ok 0 false false⟩, ⟨6, .cueFired 9 5 5 .notApplicable 0 false false⟩] :=
  ⟨⟨by decide, by decide⟩, ⟨by decide, by decide, by decide, by decide⟩, by decide +kernel, by decide +kernel⟩

/-- For PortsAtABoundary: the boundary posts that the port has settled, stamped p + 1 (R120). -/
theorem witness_settled : let h := up.putPort 1 { Port.reset with role := .capture, state := .settling, remaining := some 0 }
    told (.frameBoundary 512 []) h = [⟨1, .portState 1 .running .settled none 0⟩] := by decide +kernel

/-- For SetClockOutputTable and ClockOutputEvents: waits that a kept inversion leaves waived, in STARTING, in PAUSED and at a period's end. -/
theorem witness_waived : (∀ st ∈ [OutState.starting, .paused],
      (withOut { outIn st .m4 none none with noWait := true }).out 3 = some { outIn st .m4 none none with noWait := true }) ∧
    ((run (.clockOutputPeriodEnd 3 4 false) (withOut { outIn .running .m4 none (some ⟨.m4, false⟩) with change := .across })).out 3).map
      (fun o => (o.state, o.noWait)) = some (.paused, true) := by decide +kernel

/-- For PlayoutReachesTheWire: a slot whose stream is IDLE, HALTED or at its E, and one that no stream claims, with the port running (R44, R62, R118). -/
theorem witness_silent_slots : ∀ st ∈ [{ playing with state := .idle }, { playing with state := .halted }, { playing with stop := some 10 },
      { Stream.defined { dPlay with map := [⟨0, 0⟩] } 0 1 with state := .armed }],
    (atN 10 (withPlay st (withPorts up))).framesRun ∧ (atN 10 (withPlay st (withPorts up))).noCueDue ∧
    ((atN 10 (withPlay st (withPorts up))).port 0).map (fun p => (p.role, p.state, p.slots)) = some (.playback, .running, 2) ∧
    (∀ j st', (atN 10 (withPlay st (withPorts up))).stream j = some st' → st'.desc.direction = .play →
      (st'.state = .armed ∨ st'.state = .running ∧ st'.stop ≠ some 10) → (⟨0, 1⟩ : PortSlot) ∉ st'.desc.map) ∧
    ((run (.frameBoundary 512 []) (atN 10 (withPlay st (withPorts up)))).port 0).map (fun p => p.sdOut[1]?) = some (some 0) := by
  intro st hm
  have hs : ∀ st ∈ [{ playing with state := .idle }, { playing with state := .halted }, { playing with stop := some 10 },
      { Stream.defined { dPlay with map := [⟨0, 0⟩] } 0 1 with state := .armed }],
      (atN 10 (withPlay st (withPorts up))).resetN = true ∧ (atN 10 (withPlay st (withPorts up))).clock.switching = false ∧
      (atN 10 (withPlay st (withPorts up))).cues = [] ∧
      ((atN 10 (withPlay st (withPorts up))).port 0).map (fun p => (p.role, p.state, p.slots)) = some (.playback, .running, 2) ∧
      ((atN 10 (withPlay st (withPorts up))).engine.streams.all (fun o => match o with
        | none => true
        | some st' => decide (st'.desc.direction = .play → (st'.state = .armed ∨ st'.state = .running ∧ st'.stop ≠ some 10) →
            (⟨0, 1⟩ : PortSlot) ∉ st'.desc.map))) = true ∧
      ((run (.frameBoundary 512 []) (atN 10 (withPlay st (withPorts up)))).port 0).map (fun p => p.sdOut[1]?) = some (some 0) := by
    decide +kernel
  obtain ⟨a, b, c, d, e, f⟩ := hs st hm
  exact ⟨⟨a, b⟩, no_cue c, d, fun j st' h => streams_all e st' (stream_mem h), f⟩

/-- For ProbesAndResetVisits: no start bit after a probe, and after the RESET of a reset visit (R136, R147, R150). -/
theorem witness_probe_timeout : let off : Node := { Node.reset with state := .offline, rounds := 16 }
    let halted := run (.resetNode 5 [3]) (awaiting .resetVisit { Node.reset with state := .halted } up)
    (run .answerTimeout (awaiting .probe off up)).node 3 = some { off with rounds := 0 } ∧
    ((run .answerTimeout halted).node 3).map (fun n => (n.state, n.resetPending, n.resetCommand)) = some (.halted, false, none) ∧
    (run .answerTimeout halted).link.replies = [⟨0x51, 5, .noResponse, []⟩] := by decide +kernel

/-- For RoundsAndVisits: a WRITE passes over the MOTOR setting of the touched control 5, which keeps its place, value and marks (R152). -/
theorem witness_held : ((run .visitStart (round { onlineNode with queue := [⟨5, .motor, 9, false, false⟩, ⟨6, .led, 1, false, false⟩] })).node 16).map
    Node.queue = some [⟨5, .motor, 9, false, false⟩, ⟨6, .led, 1, true, false⟩] := by decide +kernel

/-- For RecordsReadBack: a RUNNING PLAY stream has no Dp; a CONVERTER_WRITE of four bytes uses six of the eight parameter bytes. -/
theorem witness_layouts : playing.desc.direction = .play ∧ playing.state = .running ∧ playing.dp = none ∧ playing.marks.length ≤ 4 ∧
    (late (.converterWrite 127 [1, 2, 3, 4])).fits ∧
    ((late (.converterWrite 127 [1, 2, 3, 4])).bytes.drop 17) = [127, 4, 1, 2, 3, 4, 0, 0] :=
  ⟨by decide, by decide, by decide, by decide, (witness_late_fits (.converterWrite 127 [1, 2, 3, 4]) ⟨by decide, by decide, by decide⟩).1, by decide⟩

/-- For TransmitTake: a reply that carries a byte index, and a notice of a negative ENCODER value with LOST (chapter 13). -/
theorem witness_messages : Reply.bytes ⟨0x48, 0x0102, .noAckData 3, []⟩ = [0x69, 0x48, 2, 1, 2, 0, 12, 3] ∧
    Notice.bytes ⟨9, .surfaceEvent 3 4 .encoder (-2) 8 true⟩ true =
      [0x4B, 10, 0, 0, 19, 0, 1, 9, 0, 0, 0, 0, 0, 3, 4, 4, 0xFE, 0xFF, 8, 0, 0, 0, 0, 0, 1] := by decide +kernel

/-- For TablesKept: a node with tables, and a TOUCH that goes between the controls recorded (R153). -/
theorem witness_tables : Node.fits { onlineNode with touched := [1, 5], pressed := [7] } ∧ memberSet [1, 5] 3 true = [1, 3, 5] :=
  ⟨⟨by decide, by decide, by decide, by decide, by decide, by decide, by decide, by decide, by decide⟩, by decide⟩

/-- For TriggerStream, StopStream and Reports: the last stream number, not defined. -/
theorem witness_undefined : up.Ready ∧ up.stream 15 = none ∧ (up.trigger 15 3 4 .triggerBinding) = up ∧
    (run (.triggerStream 5 [15]) up).link.replies = [⟨0x22, 5, .noSuch, []⟩] ∧
    (run (.stopStream 5 [15]) up).link.replies = [⟨0x23, 5, .noSuch, []⟩] ∧
    (run (.getStream 5 [15]) up).link.replies = [⟨0x25, 5, .noSuch, []⟩] :=
  ⟨ready (by decide), by decide, rfl, by decide +kernel, by decide +kernel, by decide +kernel⟩

/-- For PostCue and LateCueActions: the worked example of R102. The late firing at 250,000 skips three repetitions, and the entry goes behind one
that waits at 292,000. A firing by a binding takes the place of the next one. -/
theorem witness_late_repeat : let e : CueEntry := { late .clearClips with tag := 7, due := 100000, interval := 48000, repeats := 5 }
    let h := (atN 250000 up).withCues [{ late .clearClips with tag := 1, due := 292000 }, { late .clearClips with tag := 2, due := 292001 }]
    e.next 250000 = some { e with due := 292000, repeats := 1 } ∧ h.Ready ∧ (∀ c ∈ h.cues, c.tag ≠ e.tag) ∧ h.cues.length < 64 ∧
    (h.fireCue e 100000 250000 true).cues.map (fun c => (c.tag, c.due)) = [(1, 292000), (7, 292000), (2, 292001)] ∧
    (h.fireCue e 100000 250000 true).link.notices = [⟨250000, .cueFired 7 100000 250000 .ok 0 true true⟩] ∧
    (e.next 99999).map CueEntry.due = some 148000 ∧
    ((atN 99999 up).fireCue e 99999 99999 false).link.notices = [⟨99999, .cueFired 7 100000 99999 .ok 0 false false⟩] :=
  ⟨by decide, ready (by decide), by decide, by decide, by decide +kernel, by decide +kernel, by decide, by decide +kernel⟩

/-- For TransmitTake: a reply waits behind a message being sent, and while the link is not configured. -/
theorem witness_pipe_held : let h := up.withLink { up.link with replies := [⟨0x13, 5, .ok, []⟩] }
    (run .transmitTake h).link.replies = [] ∧
    (run .transmitTake (h.withLink { h.link with sending := some ⟨.reply, [1]⟩ })).link.replies = h.link.replies ∧
    (run .transmitTake (h.withLink { h.link with configured := false })).link.replies = h.link.replies := by decide +kernel

/-- For InboundMessages: with every entry held, the link not configured, RESET_N low or a command paused, a packet stays with the sender. -/
theorem witness_held_back : crowded.link.entriesHeld = 16 ∧ (run (.getClock 5 []) crowded).link.paused ≠ none ∧ crowded.link.paused = none ∧
    ∀ h ∈ [crowded, run (.getClock 5 []) crowded, up.withLink { up.link with configured := false }, { up with resetN := false }],
      (run (.outPacket [1, 2]) h).link.assembly = h.link.assembly ∧ (run .dispatchResume h).link.held = h.link.held := by decide +kernel

end Sys2Proof.Tests
end

section
/-! ## The frame of every command

Which blocks a handler of the command table may change, which blocks an inbound transfer may change, and from both the frame of every row. -/

namespace Sys2Proof.Machine

open Sys2Proof.Laws

/-- A handler changes only the blocks named. -/
def Handler.Frame (f : Handler) (bs : List Block) : Prop :=
  ∀ (h g : Hub) (ctx : CommandCtx) (body : List Byte), Hub.Within bs h g → Hub.Within bs h (f g ctx body).1

/-- The blocks that the handler of a code may change: those of its row, but for the reply entry, which dispatch takes. -/
def handlerBlocks (code : Nat) : List Block := (touches (commandRow (oneByte code) 0 [])).filter (fun b => decide (b ≠ .linkState))

theorem resetPart_frame : Handler.Frame resetPart (.draws :: allBlocks) :=
  fun _ _ c b w => w.resetPart c b (by decide) (by decide)

/-- Every handler but RESET_PART's leaves the Link Interface to dispatch, and stays within the blocks of its row. -/
theorem handlerOf_frame {code : Nat} {f : Handler} (hf : handlerOf code = some f) (hc : code ≠ 0x71) : f.Frame (handlerBlocks code) := by
  intro h g c b w
  unfold handlerOf at hf
  split at hf <;> cases hf
  · exact w.setClock c b (by decide) (by decide) (by decide) (by decide) (by decide) (by decide) (by decide) (by decide)
  · exact w.getClock c b
  · exact w.setClockOutput c b (by decide)
  · exact w.getOutputs c b
  · exact w.setTally c b (by decide)
  · exact w.runTally c b (by decide)
  · exact w.stopTally c b (by decide)
  · exact w.defineStream c b (by decide)
  · exact w.armStream c b (by decide) (by decide)
  · exact w.triggerStream c b (by decide) (by decide)
  · exact w.stopStreamCommand c b (by decide) (by decide)
  · exact w.deleteStream c b (by decide)
  · exact w.getStream c b
  · exact w.getPool c b
  · exact w.postCue c b (by decide)
  · exact w.cancelCue c b (by decide)
  · exact w.listCues c b
  · exact w.flushCuesCommand c b (by decide) (by decide)
  · exact w.configurePort c b (by decide)
  · exact w.setInitList c b (by decide)
  · exact w.startPort c b (by decide) (by decide) (by decide)
  · exact w.stopPort c b (by decide) (by decide) (by decide)
  · exact w.getPort c b
  · exact w.converterXfer c b (by decide)
  · exact w.abortXfer c b (by decide) (by decide)
  · exact w.getControlBus c b
  · exact w.setNode c b (by decide) (by decide) (by decide)
  · exact w.resetNode c b (by decide)
  · exact w.surfaceWrite c b (by decide)
  · exact w.getNode c b
  · exact w.setBinding c b (by decide)
  · exact w.clearBinding c b (by decide)
  · exact w.listBindings c b
  · exact w.setMeter c b (by decide)
  · exact w.setMeterDisplay c b (by decide)
  · exact w.readMeters c b
  · exact w.clearMeters c b (by decide)
  · exact w.describe c b
  · exact absurd rfl hc

theorem Hub.Within.mono {bs cs : List Block} {h g : Hub} (hb : ∀ x ∈ bs, x ∈ cs) (w : Hub.Within bs h g) : Hub.Within cs h g :=
  { resetN := fun n => w.resetN (fun m => n (hb _ m))
    clock := fun n => w.clock (fun m => n (hb _ m))
    outputs := fun n => w.outputs (fun m => n (hb _ m))
    tallies := fun n => w.tallies (fun m => n (hb _ m))
    engine := fun n => w.engine (fun m => n (hb _ m))
    cues := fun n => w.cues (fun m => n (hb _ m))
    ports := fun n => w.ports (fun m => n (hb _ m))
    bus := fun n => w.bus (fun m => n (hb _ m))
    surface := fun n => w.surface (fun m => n (hb _ m))
    meters := fun n => w.meters (fun m => n (hb _ m))
    link := fun n => w.link (fun m => n (hb _ m))
    linkState := fun n => w.linkState (fun m => n (hb _ m))
    draws := fun n => w.draws (fun m => n (hb _ m)) }

theorem Link.Reports.trans {l m k : Link} (h1 : Link.Reports l m) (h2 : Link.Reports m k) : Link.Reports l k := by
  induction h2 with
  | refl => exact h1
  | post _ st b ih => exact ih.post st b
  | answer _ e r ih => exact ih.answer e r

theorem Hub.Within.trans {bs : List Block} {h g k : Hub} (w : Hub.Within bs h g) (v : Hub.Within bs g k) : Hub.Within bs h k :=
  { resetN := fun n => (v.resetN n).trans (w.resetN n)
    clock := fun n => (v.clock n).trans (w.clock n)
    outputs := fun n => (v.outputs n).trans (w.outputs n)
    tallies := fun n => (v.tallies n).trans (w.tallies n)
    engine := fun n => (v.engine n).trans (w.engine n)
    cues := fun n => (v.cues n).trans (w.cues n)
    ports := fun n => (v.ports n).trans (w.ports n)
    bus := fun n => (v.bus n).trans (w.bus n)
    surface := fun n => (v.surface n).trans (w.surface n)
    meters := fun n => (v.meters n).trans (w.meters n)
    link := fun n => (v.link n).trans (w.link n)
    linkState := fun n => (w.linkState n).trans (v.linkState n)
    draws := fun n => (v.draws n).trans (w.draws n) }

theorem Handler.Frame.mono {f : Handler} {bs cs : List Block} (hf : f.Frame bs) (hb : ∀ x ∈ bs, x ∈ cs) : f.Frame cs :=
  fun _ g c b w => w.trans ((hf g g c b (.rfl' _ _)).mono hb)

/-- The handler of any code, known or not, changes no more than RESET_PART's does. -/
theorem anyHandler_frame (code : Byte) : (anyHandler code).Frame (.draws :: allBlocks) := by
  unfold anyHandler
  cases hf : handlerOf code.toNat with
  | none => exact fun _ _ c b w => w.unknownCommand c b
  | some f =>
    by_cases hc : code.toNat = 0x71
    · rw [hc] at hf
      cases hf
      exact resetPart_frame
    · refine (handlerOf_frame hf hc).mono ?_
      unfold handlerOf at hf
      split at hf <;> cases hf <;> rename_i e <;> simp only [e] <;> decide

/-! ### Inbound transfers -/

namespace Hub.Within

variable {bs : List Block} {h g : Hub}

theorem anyCommand (hb : ∀ x ∈ Block.draws :: allBlocks, x ∈ bs) (w : Hub.Within bs h g) (code : Byte) (tag : Tag) (body : List Byte) :
    Hub.Within bs h (g.command code (anyHandler code) tag body) :=
  w.command body (hb _ (by decide)) (hb _ (by decide)) code (fun c b v => ((anyHandler_frame code).mono hb) _ _ c b v) tag

theorem withAssembly (hl : Block.link ∈ bs) (hs : Block.linkState ∈ bs) (w : Hub.Within bs h g) (a : Assembly) :
    Hub.Within bs h (g.withAssembly a) := w.withLink hl hs _

theorem linkError (hl : Block.link ∈ bs) (w : Hub.Within bs h g) (k : LinkErrorKind) : Hub.Within bs h (g.linkError k) := w.post hl _

theorem dispatch (hb : ∀ x ∈ Block.draws :: allBlocks, x ∈ bs) (w : Hub.Within bs h g) (kind : Nat) (code : Byte) (tag : Tag)
    (body : List Byte) : Hub.Within bs h (g.dispatch kind code tag body) := by
  have wa := w.withAssembly (hb _ (by decide)) (hb _ (by decide)) (.gather [])
  unfold Hub.dispatch
  dsimp only
  split
  · exact wa.takePlayBlock (hb _ (by decide)) (hb _ (by decide)) body
  · exact wa.anyCommand hb code tag body

theorem grown (hb : ∀ x ∈ Block.draws :: allBlocks, x ∈ bs) (w : Hub.Within bs h g) (bytes : List Byte) :
    Hub.Within bs h (g.grown bytes) := by
  unfold Hub.grown
  split
  · exact w.dispatch hb _ _ _ _
  · exact w.withAssembly (hb _ (by decide)) (hb _ (by decide)) _

theorem headerComplete (hb : ∀ x ∈ Block.draws :: allBlocks, x ∈ bs) (w : Hub.Within bs h g) (header : List Byte) :
    Hub.Within bs h (g.headerComplete header) := by
  have wa := w.withAssembly (hb _ (by decide)) (hb _ (by decide))
  unfold Hub.headerComplete
  split
  · exact (wa _).linkError (hb _ (by decide)) _
  · split
    · exact (wa _).linkError (hb _ (by decide)) _
    · split
      · exact (wa _).linkError (hb _ (by decide)) _
      · exact w.grown hb header

theorem takeByte (hb : ∀ x ∈ Block.draws :: allBlocks, x ∈ bs) (w : Hub.Within bs h g) (b : Byte) : Hub.Within bs h (g.takeByte b) := by
  have wa := w.withAssembly (hb _ (by decide)) (hb _ (by decide))
  unfold Hub.takeByte
  dsimp only
  split
  · split
    · exact wa _
    · split
      · exact w.headerComplete hb _
      · exact w.grown hb _
  · exact wa _
  · exact w

theorem feed (hb : ∀ x ∈ Block.draws :: allBlocks, x ∈ bs) (bytes : List Byte) :
    ∀ {g : Hub}, Hub.Within bs h g → Hub.Within bs h (feed bytes g).1 := by
  induction bytes with
  | nil => exact fun w => w
  | cons b rest ih =>
    intro g w
    unfold Machine.feed
    split
    · exact w
    · exact ih (w.takeByte hb b)

theorem transferEnd (hl : Block.link ∈ bs) (hs : Block.linkState ∈ bs) (w : Hub.Within bs h g) : Hub.Within bs h g.transferEnd := by
  unfold Hub.transferEnd
  split
  · exact w
  · exact (w.withAssembly hl hs _).linkError hl _
  · exact (w.withAssembly hl hs _).linkError hl _
  · exact w.withAssembly hl hs _

theorem takeBytes (hb : ∀ x ∈ Block.draws :: allBlocks, x ∈ bs) (w : Hub.Within bs h g) (bytes : List Byte) (ends : Bool) :
    Hub.Within bs h (g.takeBytes bytes ends) := by
  have hl : Block.link ∈ bs := hb _ (by decide)
  have hs : Block.linkState ∈ bs := hb _ (by decide)
  have wf := w.feed hb bytes
  unfold Hub.takeBytes
  dsimp only
  split
  · exact wf.withLink hl hs _
  · split
    · exact (wf.withLink hl hs _).transferEnd hl hs
    · exact wf.withLink hl hs _

theorem outPacket (hb : ∀ x ∈ Block.draws :: allBlocks, x ∈ bs) (w : Hub.Within bs h g) (bytes : List Byte) :
    Hub.Within bs h (g.outPacket bytes) := by
  unfold Hub.outPacket
  split
  · exact w.takeBytes hb _ _
  · exact w

theorem dispatchResume (hb : ∀ x ∈ Block.draws :: allBlocks, x ∈ bs) (w : Hub.Within bs h g) : Hub.Within bs h g.dispatchResume := by
  have hl : Block.link ∈ bs := hb _ (by decide)
  have hs : Block.linkState ∈ bs := hb _ (by decide)
  unfold Hub.dispatchResume
  split
  · exact w
  · rename_i c _
    split
    · exact ((w.withLink hl hs _).runCommand _ hl hs _ (fun x b v => ((anyHandler_frame c.code).mono hb) _ _ x b v) _).takeBytes hb _ _
    · exact w

theorem powerOn (h : Hub) : Hub.Within (.resetN :: allBlocks) h h.powerOn :=
  { rfl' (.resetN :: allBlocks) h with
    resetN := fun n => absurd (by decide) n
    clock := fun n => absurd (by decide) n
    outputs := fun n => absurd (by decide) n
    tallies := fun n => absurd (by decide) n
    engine := fun n => absurd (by decide) n
    cues := fun n => absurd (by decide) n
    ports := fun n => absurd (by decide) n
    bus := fun n => absurd (by decide) n
    surface := fun n => absurd (by decide) n
    meters := fun n => absurd (by decide) n
    link := fun n => absurd (by decide) n
    linkState := fun n => absurd (by decide) n }

end Hub.Within

/-! ### Rows -/

/-- An outcome that goes on, changes the hub within the blocks named, and leaves the waiting commands alone. -/
def State.ChangesWithin (s : State) (bs : List Block) (o : Host.Outcome State Fault Refusal) : Prop :=
  ∃ h : Hub, o = s.becomes h ∧ Hub.Within bs s.hub h

theorem State.onHub_changesWithin (s : State) {bs : List Block} {f : Hub → Hub} (hf : ∀ h, Hub.Within bs h (f h)) :
    s.ChangesWithin bs (s.onHub f) := ⟨f s.hub, rfl, hf s.hub⟩

theorem State.onLive_changesWithin (s : State) {bs : List Block} {f : Hub → Hub} (hf : ∀ h, Hub.Within bs h h → Hub.Within bs h (f h)) :
    s.ChangesWithin bs (s.onLive f) := by
  refine s.onHub_changesWithin fun h => ?_
  split
  · exact hf h (.rfl' _ h)
  · exact .rfl' _ h

/-- A row that is a command of the computer goes to the handler of its code. -/
theorem exec_of_messageOf {i : Instr} {code : Byte} {tag : Tag} {body : List Byte} (hi : messageOf i = some (code, tag, body)) :
    (∃ f, handlerOf code.toNat = some f ∧ ∀ s : State, exec i s = s.onHub (fun h => h.command code f tag body)) ∧
      touches i = touches (commandRow (oneByte code.toNat) 0 []) := by
  cases i <;> cases hi <;> exact ⟨⟨_, rfl, fun _ => rfl⟩, rfl⟩

theorem handlerBlocks_subset (code : Nat) : ∀ x ∈ handlerBlocks code, x ∈ touches (commandRow (oneByte code) 0 []) :=
  fun _ hx => (List.mem_filter.mp hx).1

/-- Every command of the computer takes a reply entry. -/
theorem touches_link_of_messageOf {i : Instr} {m : Byte × Tag × List Byte} (hi : messageOf i = some m) :
    Block.link ∈ touches i ∧ Block.linkState ∈ touches i := by
  cases i <;> cases hi <;> simp [touches, cueBlocks, allBlocks]

/-- The frame of a row that is a command of the computer. -/
theorem exec_command_within {i : Instr} {code : Byte} {tag : Tag} {body : List Byte} (hi : messageOf i = some (code, tag, body))
    (s : State) : s.ChangesWithin (touches i) (exec i s) := by
  obtain ⟨hl, hs⟩ := touches_link_of_messageOf hi
  obtain ⟨⟨f, hf, e⟩, ht⟩ := exec_of_messageOf hi
  have frame : f.Frame (touches i) := by
    rw [ht]
    by_cases hc : code.toNat = 0x71
    · rw [hc] at hf ⊢
      cases hf
      exact resetPart_frame
    · exact (handlerOf_frame hf hc).mono (handlerBlocks_subset _)
  rw [e]
  exact s.onHub_changesWithin fun h => (Hub.Within.rfl' _ h).command body hl hs code (fun c b w => frame _ _ c b w) tag

/-- The frame of a row that is an event. -/
theorem exec_event_within {i : Instr} (hi : messageOf i = none) (s : State) : s.ChangesWithin (touches i) (exec i s) := by
  have live : ∀ {bs : List Block} {f : Hub → Hub}, (∀ h, Hub.Within bs h h → Hub.Within bs h (f h)) → s.ChangesWithin bs (s.onLive f) :=
    s.onLive_changesWithin
  cases i <;> dsimp only [touches, exec]
  case powerOnReset => exact s.onHub_changesWithin .powerOn
  case resetNRelease => exact s.onHub_changesWithin fun h => { Hub.Within.rfl' _ h with resetN := fun n => absurd (by decide) n }
  case frameBoundary m wire => exact live fun _ w => w.frameBoundary (fun _ hx => hx) m wire
  case crystalSwitchDone => exact live fun _ w => w.withClock (by decide) _
  case wckiEdge p k => exact live fun _ w => w.wckiEdge (by decide) (by decide) (by decide) p k
  case rateMeasurementComplete p k =>
    refine live fun _ w => ?_
    split
    · exact w.wckiEdge (by decide) (by decide) (by decide) p k
    · exact w
  case acquireLock ev =>
    refine live fun _ w => ?_
    split
    · exact w.referenceEvent (by decide) (by decide) (by decide) (by decide) ev
    · exact w
  case referenceTimeout => exact live fun _ w => w.referenceTimeout (by decide) (by decide)
  case acquireTimeout => exact live fun _ w => w.acquireTimeout (by decide) (by decide)
  case linkCorrectionRecord f p =>
    refine live fun _ w => ?_
    split
    · exact w.startOfFrame (by decide) (by decide) (by decide) (by decide) f p
    · exact w
  case linkReferenceReturn f p =>
    refine live fun _ w => ?_
    split
    · exact w.startOfFrame (by decide) (by decide) (by decide) (by decide) f p
    · exact w
  case startOfFrame f p => exact live fun _ w => w.startOfFrame (by decide) (by decide) (by decide) (by decide) f p
  case clockOutputStart i m => exact live fun _ w => w.outputStart (by decide) i m
  case clockOutputPeriodEnd i m a => exact live fun _ w => w.outputPeriodEnd (by decide) i m a
  case playBlock body =>
    refine s.onHub_changesWithin fun h => ?_
    split
    · exact (Hub.Within.rfl' _ h).takePlayBlock (by decide) (by decide) body
    · exact .rfl' _ h
  case portSettled i => exact live fun _ w => w.portSettled (by decide) (by decide) i
  case transactionEnd o => exact live fun _ w => w.transactionEnd (by decide) (by decide) (by decide) o
  case markedJobEnd p => exact live fun _ w => w.markedJobEnd (by decide) (by decide) (by decide) p
  case busStuck p => exact live fun _ w => w.busStuck (by decide) (by decide) (by decide) p
  case busRecoveryEnd o k => exact live fun _ w => w.busRecoveryEnd (by decide) (by decide) (by decide) o k
  case busReleaseEnd p => exact live fun _ w => w.busReleaseEnd (by decide) p
  case roundStart => exact live fun _ w => w.roundStart (by decide)
  case visitStart => exact live fun _ w => w.visitStart (by decide)
  case reportReceived => exact live fun _ w => w.reportReceived (by decide)
  case answerTimeout => exact live fun _ w => w.answerTimeout (by decide) (by decide) (by decide)
  case resetExchangeEnd a => exact live fun _ w => w.answerArrives (by decide) (fun _ => by decide) (by decide) (by decide) a
  case writeExchangeEnd a => exact live fun _ w => w.answerArrives (by decide) (fun _ => by decide) (by decide) (by decide) a
  case pollExchangeEnd a => exact live fun _ w => w.pollArrives (fun _ hx => hx) a
  case probeEnd a => exact live fun _ w => w.answerArrives (by decide) (fun _ => by decide) (by decide) (by decide) a
  case resetVisitEnd a => exact live fun _ w => w.answerArrives (by decide) (fun n => absurd rfl n) (by decide) (by decide) a
  case outPacket bytes => exact live fun _ w => w.outPacket (fun _ hx => hx) bytes
  case unknownCommand code tag body =>
    refine s.onHub_changesWithin fun h => ?_
    split
    · exact (Hub.Within.rfl' _ h).command body (by decide) (by decide) code (fun c b w => w.unknownCommand c b) tag
    · exact .rfl' _ h
  case dispatchResume => exact live fun _ w => w.dispatchResume (fun _ hx => hx)
  case transmitTake => exact live fun _ w => w.transmitTake (by decide) (by decide) (by decide)
  case messageSent => exact live fun _ w => w.withLink (by decide) (by decide) _
  case linkReset cause => exact live fun _ w => w.withLink (by decide) (by decide) _
  case configuration => exact live fun _ w => w.withLink (by decide) (by decide) _
  case resume => exact live fun _ w => w.withLink (by decide) (by decide) _
  all_goals cases hi

/-- Every row, command or event, changes the hub within the blocks it names. -/
theorem exec_within (i : Instr) (s : State) : s.ChangesWithin (touches i) (exec i s) := by
  cases hi : messageOf i with
  | none => exact exec_event_within hi s
  | some m => exact exec_command_within hi s

/-- Settles O54: each row's frame, from the frame of its handler or of its event. -/
theorem commandFrames : Obligations.CommandFrames := exec_within

end Sys2Proof.Machine
end

section
/-! ## The Media Clock's operations

What each operation of chapter 1 makes of the Media Clock and of the link, said once. -/

namespace Sys2Proof.Machine

/-! ### The pull range (R2) -/

theorem withinPull_nominal : withinPull nominal := ⟨by decide, by decide, by decide⟩

theorem withinPull_clampPull (r : Ratio) : withinPull (clampPull r) := by
  unfold clampPull
  split
  · exact withinPull_nominal
  · split
    · exact ⟨by decide, by decide, by decide⟩
    · split
      · exact ⟨by decide, by decide, by decide⟩
      · exact ⟨by omega, by omega, by omega⟩

theorem clampPull_of_withinPull {r : Ratio} (h : withinPull r) : clampPull r = r := by
  obtain ⟨hd, hlo, hhi⟩ := h
  unfold clampPull
  rw [if_neg (by omega), if_neg (by omega), if_neg (by omega)]

/-! ### Single operations -/

section operations

variable (h : Hub)

@[simp] theorem Hub.recordHeld_clock (r : Ratio) : (h.recordHeld r).clock = { h.clock with held := clampPull r } := rfl
@[simp] theorem Hub.recordHeld_link (r : Ratio) : (h.recordHeld r).link = h.link := rfl

@[simp] theorem Hub.postClock_clock (r : ClockReason) : (h.postClock r).clock = h.clock := rfl
@[simp] theorem Hub.postClock_link (r : ClockReason) : (h.postClock r).link =
    h.link.post h.clock.n (.clockState h.clock.state h.clock.source h.clock.rate h.clock.detected r) := rfl

@[simp] theorem Hub.enterAcquiring_clock (m : Bool) : (h.enterAcquiring m).clock = { h.clock with
    state := .acquiring, lockRun := 0, timer := some 0, matched := m, refRun := 0, anchor := none, sinceAnchor := 0,
    steered := clampPull (Config.steeredCorrection h.draws) } := rfl
@[simp] theorem Hub.enterAcquiring_link (m : Bool) : (h.enterAcquiring m).link = h.link := rfl

@[simp] theorem Hub.enterHoldover_clock : h.enterHoldover.clock =
    { h.clock with state := .holdover, timer := none, refRun := 0, steered := h.clock.held } := rfl
@[simp] theorem Hub.enterHoldover_link : h.enterHoldover.link = h.link := rfl

/-- The steered correction after a reference event (R2). -/
def Hub.eventSteered : Ratio := h.steerAtEvent.clock.steered

@[simp] theorem Hub.steerAtEvent_clock : h.steerAtEvent.clock = { h.clock with steered := h.eventSteered } := by
  unfold Hub.eventSteered Hub.steerAtEvent
  split <;> rfl

@[simp] theorem Hub.steerAtEvent_link : h.steerAtEvent.link = h.link := by
  unfold Hub.steerAtEvent
  split <;> rfl

theorem Hub.withinPull_eventSteered (hs : withinPull h.clock.steered) : withinPull h.eventSteered := by
  unfold Hub.eventSteered Hub.steerAtEvent
  split
  · exact withinPull_clampPull _
  · exact withinPull_clampPull _
  · exact hs
  · exact hs

/-- The lock run after a reference event (R7). -/
def MediaClock.runAfter (c : MediaClock) (phase : Ratio) : Nat :=
  if c.state = .acquiring then (if withinBound phase then min 64 (c.lockRun + 1) else 0) else c.lockRun

@[simp] theorem Hub.moveLockRun_clock (phase : Ratio) :
    (h.moveLockRun phase).clock = { h.clock with lockRun := h.clock.runAfter phase } := by
  unfold Hub.moveLockRun MediaClock.runAfter
  split <;> rfl

@[simp] theorem Hub.moveLockRun_link (phase : Ratio) : (h.moveLockRun phase).link = h.link := by
  unfold Hub.moveLockRun
  split <;> rfl

/-- Both halves of the lock condition stand (R7). -/
def MediaClock.locks (c : MediaClock) : Prop := c.state = .acquiring ∧ c.lockRun = 64 ∧ (c.source = .linkFrame ∨ c.matched = true)

theorem Hub.tryLock_of_locks {h : Hub} (hl : h.clock.locks) :
    h.tryLock = (h.withClock { h.clock with state := .locked, timer := none, refRun := 0 }).postClock .locked := if_pos hl

theorem Hub.tryLock_of_not_locks {h : Hub} (hl : ¬ h.clock.locks) : h.tryLock = h := if_neg hl

end operations

/-! ### What a reference event does to the lock run -/

/-- The share of a reference event in the lock: the clock is steered, the lock run moves, and the state may become LOCKED. -/
def Hub.lockEvent (h : Hub) (phase : Ratio) : Hub := ((h.steerAtEvent).moveLockRun phase).tryLock

/-- The event completes the lock run with the other half of the lock condition met, or finds it complete (R7). -/
def MediaClock.locksAt (c : MediaClock) (phase : Ratio) : Prop :=
  c.state = .acquiring ∧ c.runAfter phase = 64 ∧ (c.source = .linkFrame ∨ c.matched = true)

theorem Hub.lockEvent_of_locks {h : Hub} {phase : Ratio} (hl : h.clock.locksAt phase) :
    (h.lockEvent phase).clock = { h.clock with
      steered := h.eventSteered, lockRun := 64, state := .locked, timer := none, refRun := 0 } ∧
    (h.lockEvent phase).link =
      h.link.post h.clock.n (.clockState .locked h.clock.source h.clock.rate h.clock.detected .locked) := by
  obtain ⟨hs, hr, hm⟩ := hl
  have run : { h.clock with steered := h.eventSteered }.runAfter phase = 64 := hr
  have : ((h.steerAtEvent).moveLockRun phase).clock.locks := by
    simp only [Hub.moveLockRun_clock, Hub.steerAtEvent_clock]
    exact ⟨hs, run, hm⟩
  unfold Hub.lockEvent
  rw [Hub.tryLock_of_locks this]
  simp [run]

theorem Hub.lockEvent_of_not_locks {h : Hub} {phase : Ratio} (hl : ¬ h.clock.locksAt phase) :
    (h.lockEvent phase).clock = { h.clock with steered := h.eventSteered, lockRun := h.clock.runAfter phase } ∧
    (h.lockEvent phase).link = h.link := by
  have : ¬ ((h.steerAtEvent).moveLockRun phase).clock.locks := by
    simp only [Hub.moveLockRun_clock, Hub.steerAtEvent_clock]
    exact hl
  unfold Hub.lockEvent
  rw [Hub.tryLock_of_not_locks this]
  simp [MediaClock.runAfter]

/-- What no reference event changes in the lock's share: N, source, rate, the detected rate, the held correction, the measurement. -/
theorem Hub.lockEvent_keeps (h : Hub) (phase : Ratio) :
    (h.lockEvent phase).clock = { h.clock with
      steered := h.eventSteered, lockRun := h.clock.runAfter phase, state := (h.lockEvent phase).clock.state
      timer := (h.lockEvent phase).clock.timer, refRun := (h.lockEvent phase).clock.refRun } := by
  by_cases hl : h.clock.locksAt phase
  · rw [(Hub.lockEvent_of_locks hl).1, hl.2.1]
  · rw [(Hub.lockEvent_of_not_locks hl).1]

/-! ### Rate changes -/

/-- R13's two conditions, as the handler reads them and as the statements name them. -/
theorem Hub.rateBlocked_eq_false_iff (h : Hub) : h.rateBlocked = false ↔ h.rateFree := by
  unfold Hub.rateBlocked Hub.rateFree
  simp only [Bool.or_eq_false_iff, List.any_eq_false]
  refine and_congr ⟨fun hs st hm => ?_, fun hs o hm => ?_⟩ ?_
  · have := hs _ hm
    cases hst : st.state <;> simp [Stream.blocksRate, hst] at this ⊢
  · cases o with
    | none => simp
    | some st => obtain e | e := hs st hm <;> simp [Stream.blocksRate, e]
  · simp

/-- Everything SET_CLOCK can do (R12, R13). -/
theorem setClock_cases (h : Hub) (ctx : CommandCtx) (body : List Byte) :
    (setClock h ctx body).1 = h ∨ (∃ src, (setClock h ctx body).1 = h.changeSource src) ∨
      ∃ src rate, body.length = 2 ∧ rate ≠ h.clock.rate ∧ h.rateFree ∧ (setClock h ctx body).1 = h.changeRate src rate := by
  unfold setClock
  split
  · exact .inl rfl
  · rename_i hlen
    split
    · rename_i src rate _ _
      split
      · rename_i hr
        cases hb : h.rateBlocked with
        | true => exact .inl rfl
        | false => exact .inr (.inr ⟨src, rate, by omega, hr, h.rateBlocked_eq_false_iff.mp hb, rfl⟩)
      · split
        · exact .inr (.inl ⟨src, rfl⟩)
        · exact .inl rfl
    · exact .inl rfl

/-- An accepted rate change takes the new rate (R14). -/
theorem Hub.changeRate_rate (h : Hub) (src : Source) (rate : Rate) : (h.changeRate src rate).clock.rate = rate := by
  cases src <;> rfl

end Sys2Proof.Machine
end

section
/-! ## The timeline: what can move N

A change of the hub moves N at most to 0, under a condition that says when, and keeps the corrections in the pull range. -/

namespace Sys2Proof.Machine

open Sys2Proof.Laws

/-- From `h` to `g` N stands, or is 0 and `P` holds; and the corrections stay in the pull range (R1, R2). -/
structure Hub.TimeMoves (P : Prop) (h g : Hub) : Prop where
  n : g.clock.n = h.clock.n ∨ g.clock.n = 0 ∧ P
  fits : h.clock.correctionFits → g.clock.correctionFits

namespace Hub.TimeMoves

variable {P Q : Prop} {h g k : Hub}

theorem of_clock_eq (e : g.clock = h.clock) : Hub.TimeMoves P h g := ⟨.inl (by rw [e]), by rw [e]; exact id⟩

theorem rfl' (P : Prop) (h : Hub) : Hub.TimeMoves P h h := of_clock_eq rfl

theorem mono (w : Hub.TimeMoves P h g) (hp : P → Q) : Hub.TimeMoves Q h g := ⟨w.n.imp_right (And.imp_right hp), w.fits⟩

theorem trans (w : Hub.TimeMoves P h g) (v : Hub.TimeMoves P g k) : Hub.TimeMoves P h k := by
  refine ⟨?_, v.fits ∘ w.fits⟩
  obtain ev | ev := v.n
  · rw [ev]
    exact w.n
  · exact .inr ev

/-- A change that leaves the Media Clock out. -/
theorem of_within {bs : List Block} (hc : Block.clock ∉ bs) (w : Hub.Within bs h g) : Hub.TimeMoves P h g := of_clock_eq (w.clock hc)

/-! ### The Media Clock's operations -/

/-- An operation that ends with N as it was and with corrections of these two values. -/
theorem of_corrections (hn : g.clock.n = h.clock.n) (hh : g.clock.held = h.clock.held ∨ withinPull g.clock.held)
    (hs : g.clock.steered = h.clock.steered ∨ g.clock.steered = h.clock.held ∨ withinPull g.clock.steered) : Hub.TimeMoves P h g := by
  refine ⟨.inl hn, fun ⟨fh, fs⟩ => ⟨?_, ?_⟩⟩
  · obtain e | w := hh
    · rwa [e]
    · exact w
  · obtain e | e | w := hs
    · rwa [e]
    · rwa [e]
    · exact w

theorem enterAcquiring (w : Hub.TimeMoves P h g) (m : Bool) : Hub.TimeMoves P h (g.enterAcquiring m) :=
  w.trans (of_corrections rfl (.inl rfl) (.inr (.inr (withinPull_clampPull _))))

theorem enterHoldover (w : Hub.TimeMoves P h g) : Hub.TimeMoves P h g.enterHoldover :=
  w.trans (of_corrections rfl (.inl rfl) (.inr (.inl rfl)))

theorem recordHeld (w : Hub.TimeMoves P h g) (r : Ratio) : Hub.TimeMoves P h (g.recordHeld r) :=
  w.trans (of_corrections rfl (.inr (withinPull_clampPull _)) (.inl rfl))

theorem postClock (w : Hub.TimeMoves P h g) (r : ClockReason) : Hub.TimeMoves P h (g.postClock r) := w.trans (of_clock_eq rfl)

theorem withLink (w : Hub.TimeMoves P h g) (l : Link) : Hub.TimeMoves P h (g.withLink l) := w.trans (of_clock_eq rfl)

/-- A change of the Media Clock's other fields. -/
theorem withClock (w : Hub.TimeMoves P h g) {c : MediaClock}
    (hc : c.n = g.clock.n ∧ c.held = g.clock.held ∧ c.steered = g.clock.steered) : Hub.TimeMoves P h (g.withClock c) :=
  w.trans (of_corrections hc.1 (.inl hc.2.1) (.inl hc.2.2))

theorem steerAtEvent (w : Hub.TimeMoves P h g) : Hub.TimeMoves P h g.steerAtEvent := by
  refine w.trans ⟨.inl (by simp), fun ⟨fh, fs⟩ => ?_⟩
  rw [Hub.steerAtEvent_clock]
  exact ⟨fh, g.withinPull_eventSteered fs⟩

theorem moveLockRun (w : Hub.TimeMoves P h g) (p : Ratio) : Hub.TimeMoves P h (g.moveLockRun p) :=
  w.trans (of_corrections (by simp) (.inl (by simp)) (.inl (by simp)))

theorem tryLock (w : Hub.TimeMoves P h g) : Hub.TimeMoves P h g.tryLock := by
  by_cases hl : g.clock.locks
  · rw [Hub.tryLock_of_locks hl]
    apply postClock
    exact w.withClock ⟨rfl, rfl, rfl⟩
  · rwa [Hub.tryLock_of_not_locks hl]

theorem measurementEnd (w : Hub.TimeMoves P h g) (k : Nat) (r : Ratio) : Hub.TimeMoves P h (g.measurementEnd k r) := by
  have wd := w.withClock (c := { g.clock with detected := detectRate k }) ⟨rfl, rfl, rfl⟩
  unfold Hub.measurementEnd
  dsimp only
  split
  · exact wd
  · split
    · exact tryLock (wd.withClock ⟨rfl, rfl, rfl⟩)
    · exact wd.enterHoldover.postClock _
  · split
    · exact wd.recordHeld r
    · exact wd.enterHoldover.postClock _
  · split
    · exact (wd.enterAcquiring true).postClock _
    · exact wd

theorem measureEdge (w : Hub.TimeMoves P h g) (c : MediaClock) (k : Nat) : Hub.TimeMoves P h (g.measureEdge c k) := by
  unfold Hub.measureEdge
  split
  · exact w.withClock ⟨rfl, rfl, rfl⟩
  · split
    · apply measurementEnd
      exact w.withClock ⟨rfl, rfl, rfl⟩
    · exact w.withClock ⟨rfl, rfl, rfl⟩

theorem wckiEdge (w : Hub.TimeMoves P h g) (p : Ratio) (k : Nat) : Hub.TimeMoves P h (g.wckiEdge p k) := by
  unfold Hub.wckiEdge
  split
  · exact ((w.steerAtEvent.moveLockRun p).tryLock).measureEdge _ _
  · exact w

theorem pairLink (w : Hub.TimeMoves P h g) (p : Ratio) (k : Nat) : Hub.TimeMoves P h (g.withClock (g.clock.pairLink p k)) := by
  unfold MediaClock.pairLink
  split <;> exact w.withClock ⟨rfl, rfl, rfl⟩

theorem linkEvent (w : Hub.TimeMoves P h g) (p : Ratio) (k : Nat) : Hub.TimeMoves P h (g.linkEvent p k) := by
  have w1 := (w.pairLink p k).steerAtEvent
  unfold Hub.linkEvent
  dsimp only
  split
  · exact w1
  · exact (w1.moveLockRun p).tryLock
  · split
    · apply recordHeld
      exact w1.withClock ⟨rfl, rfl, rfl⟩
    · exact w1.withClock ⟨rfl, rfl, rfl⟩
  · split
    · exact (w1.enterAcquiring true).postClock _
    · exact w1.withClock ⟨rfl, rfl, rfl⟩

theorem startOfFrame (w : Hub.TimeMoves P h g) (f : BitVec 11) (p : Ratio) : Hub.TimeMoves P h (g.startOfFrame f p) := by
  unfold Hub.startOfFrame
  dsimp only
  split
  · split
    · exact (w.withLink _).linkEvent p _
    · exact w.withLink _
  · exact w

theorem referenceEvent (w : Hub.TimeMoves P h g) (ev : RefEvent) : Hub.TimeMoves P h (g.referenceEvent ev) := by
  cases ev with
  | wcki p k => exact w.wckiEdge p k
  | sof f p => exact w.startOfFrame f p

theorem referenceTimeout (w : Hub.TimeMoves P h g) : Hub.TimeMoves P h g.referenceTimeout := by
  have w1 : Hub.TimeMoves P h (g.withClock g.clock.abandonMeasurement) := by
    unfold MediaClock.abandonMeasurement
    split <;> exact w.withClock ⟨rfl, rfl, rfl⟩
  unfold Hub.referenceTimeout
  dsimp only
  split
  · exact w
  · split
    · exact w
    · exact w1.enterHoldover.postClock _
    · exact w1.enterHoldover.postClock _
    · exact w1.withClock ⟨rfl, rfl, rfl⟩

theorem acquireTimeout (w : Hub.TimeMoves P h g) : Hub.TimeMoves P h g.acquireTimeout := by
  unfold Hub.acquireTimeout
  split
  · exact w
  · split
    · apply postClock
      exact w.withClock ⟨rfl, rfl, rfl⟩
    · exact w

theorem enterSource (w : Hub.TimeMoves P h g) : Hub.TimeMoves P h g.enterSource := by
  unfold Hub.enterSource
  split
  · exact w.withClock ⟨rfl, rfl, rfl⟩
  · exact w.enterAcquiring false
  · exact w.enterAcquiring false

theorem changeSource (w : Hub.TimeMoves P h g) (src : Source) : Hub.TimeMoves P h (g.changeSource src) :=
  ((w.withClock (c := g.clock.configured src g.clock.rate) ⟨rfl, rfl, rfl⟩).enterSource).postClock _

/-- A rate change sets N to 0, and keeps the held correction or makes it nominal (R14). -/
theorem changeRate (w : Hub.TimeMoves P h g) (hp : P) (src : Source) (rate : Rate) : Hub.TimeMoves P h (g.changeRate src rate) := by
  have zero : Hub.TimeMoves P g
      ((g.rateEffects (decide (rate.family ≠ g.clock.rate.family))).withClock
        ((g.clock.zeroed (decide (rate.family ≠ g.clock.rate.family))).configured src rate)) := by
    refine ⟨.inr ⟨rfl, hp⟩, fun ⟨fh, fs⟩ => ⟨?_, fs⟩⟩
    show withinPull (if _ then nominal else g.clock.held)
    split
    · exact withinPull_nominal
    · exact fh
  exact (((w.trans zero).trans (of_within (bs := [.cues, .link]) (by decide)
    ((Hub.Within.rfl' _ _).flushCues (by decide) (by decide) .rateChange))).enterSource).postClock _

theorem resetPart (w : Hub.TimeMoves P h g) (hp : P) (own : Nat) : Hub.TimeMoves P h (g.resetPart own) :=
  w.trans ⟨.inr ⟨rfl, hp⟩, fun _ => ⟨withinPull_nominal, withinPull_nominal⟩⟩

end Hub.TimeMoves

/-! ### Commands -/

theorem setClock_time (h : Hub) (ctx : CommandCtx) (body : List Byte) :
    Hub.TimeMoves (body.length = 2 ∧ (setClock h ctx body).1.clock.rate ≠ h.clock.rate ∧ h.rateFree) h (setClock h ctx body).1 := by
  obtain e | ⟨src, e⟩ | ⟨src, rate, hlen, hr, hf, e⟩ := setClock_cases h ctx body <;> rw [e]
  · exact .rfl' _ _
  · exact (Hub.TimeMoves.rfl' _ _).changeSource src
  · refine (Hub.TimeMoves.rfl' _ _).changeRate ⟨hlen, ?_, hf⟩ src rate
    rw [Hub.changeRate_rate]
    exact hr

theorem resetPart_time (h : Hub) (ctx : CommandCtx) (body : List Byte) : Hub.TimeMoves (body = []) h (resetPart h ctx body).1 := by
  unfold resetPart
  split
  · exact .rfl' _ _
  · rename_i hl
    exact (Hub.TimeMoves.rfl' _ _).resetPart (List.length_eq_zero_iff.mp (by simpa using hl)) _

/-- The two handlers that touch the Media Clock. -/
theorem clock_notMem_handlerBlocks {code : Nat} {f : Handler} (hf : handlerOf code = some f) (h1 : code ≠ 0x01) (h2 : code ≠ 0x71) :
    Block.clock ∉ handlerBlocks code := by
  unfold handlerOf at hf
  split at hf <;> try contradiction
  all_goals decide

theorem anyHandler_time (code : Byte) (h : Hub) (ctx : CommandCtx) (body : List Byte) :
    Hub.TimeMoves (zeroCommand code body) h (anyHandler code h ctx body).1 := by
  by_cases h1 : code = 0x01
  · subst h1
    exact (setClock_time h ctx body).mono fun ⟨hl, _⟩ => .inl ⟨rfl, hl⟩
  · by_cases h2 : code = 0x71
    · subst h2
      exact (resetPart_time h ctx body).mono fun hb => .inr ⟨rfl, hb⟩
    · unfold anyHandler
      cases hf : handlerOf code.toNat with
      | none => exact .rfl' _ _
      | some f =>
        have n1 : code.toNat ≠ 0x01 := fun e => h1 (BitVec.eq_of_toNat_eq e)
        have n2 : code.toNat ≠ 0x71 := fun e => h2 (BitVec.eq_of_toNat_eq e)
        exact .of_within (clock_notMem_handlerBlocks hf n1 n2) (handlerOf_frame hf n2 _ _ _ _ (.rfl' _ _))

/-- No command disturbs the message that assembly holds in part. -/
theorem Link.Reports.assembly {l m : Link} (w : Link.Reports l m) : m.assembly = l.assembly := by
  induction w with
  | refl => rfl
  | post _ _ _ ih => simpa using ih
  | answer _ _ _ ih => simpa using ih

theorem anyHandler_assembly (code : Byte) (h : Hub) (ctx : CommandCtx) (body : List Byte) :
    (anyHandler code h ctx body).1.link.assembly = h.link.assembly := by
  unfold anyHandler
  cases hf : handlerOf code.toNat with
  | none => rfl
  | some f =>
    by_cases hc : code.toNat = 0x71
    · rw [hc] at hf
      cases hf
      show (resetPart h ctx body).1.link.assembly = _
      unfold resetPart
      split <;> rfl
    · have hs : Block.linkState ∉ handlerBlocks code.toNat := by simp [handlerBlocks]
      exact ((handlerOf_frame hf hc _ _ ctx body (.rfl' _ h)).linkState hs).assembly

/-- Dispatching a command is its handler's change and a reply. -/
theorem Hub.runCommand_clock (h : Hub) (code : Byte) (f : Handler) (tag : Tag) (body : List Byte) :
    (h.runCommand code f tag body).clock = (f (h.withLink h.link.takeEntry) ⟨tag, h.link.serial⟩ body).1.clock := by
  unfold Hub.runCommand
  generalize f _ _ _ = r
  obtain ⟨g, _ | _⟩ := r <;> rfl

theorem Hub.runCommand_assembly (h : Hub) (code : Byte) (f : Handler) (tag : Tag) (body : List Byte) :
    (h.runCommand code f tag body).link.assembly = (f (h.withLink h.link.takeEntry) ⟨tag, h.link.serial⟩ body).1.link.assembly := by
  unfold Hub.runCommand
  generalize f _ _ _ = r
  obtain ⟨g, _ | _⟩ := r <;> simp

theorem Hub.runCommand_time (h : Hub) {P : Prop} (code : Byte) {f : Handler} (tag : Tag) {body : List Byte}
    (hf : ∀ g ctx, Hub.TimeMoves P g (f g ctx body).1) : Hub.TimeMoves P h (h.runCommand code f tag body) :=
  (((Hub.TimeMoves.rfl' P h).withLink _).trans (hf _ _)).trans (.of_clock_eq (h.runCommand_clock code f tag body))

theorem Hub.command_clock_cases (h : Hub) (code : Byte) (f : Handler) (tag : Tag) (body : List Byte) :
    (h.command code f tag body).clock = h.clock ∨
      (h.command code f tag body).clock = (f (h.withLink h.link.takeEntry) ⟨tag, h.link.serial⟩ body).1.clock := by
  unfold Hub.command
  split
  · split
    · exact .inr (h.runCommand_clock code f tag body)
    · exact .inl rfl
  · exact .inl rfl

theorem Hub.command_time (h : Hub) (code : Byte) (tag : Tag) (body : List Byte) :
    Hub.TimeMoves (zeroCommand code body) h (h.command code (anyHandler code) tag body) := by
  obtain e | e := h.command_clock_cases code (anyHandler code) tag body
  · exact .of_clock_eq e
  · exact ((((Hub.TimeMoves.rfl' _ h).withLink _).trans (anyHandler_time code _ _ body))).trans (.of_clock_eq e)

theorem Hub.command_assembly (h : Hub) (code : Byte) (tag : Tag) (body : List Byte) :
    (h.command code (anyHandler code) tag body).link.assembly = h.link.assembly := by
  unfold Hub.command
  split
  · split
    · rw [Hub.runCommand_assembly, anyHandler_assembly]
      rfl
    · rfl
  · rfl

/-! ### Inbound transfers -/

theorem carriesZero.extend {bytes : List Byte} (h : carriesZero bytes) (front rear : List Byte) : carriesZero (front ++ bytes ++ rear) := by
  obtain ⟨before, msg, after, rfl, rest⟩ := h
  exact ⟨front ++ before, msg, after ++ rear, by simp, rest⟩

/-- The bytes are one whole message that may set N to 0. -/
theorem carriesZero_of_whole {bytes : List Byte} (hlen : bytes.length = 6 + declaredLength bytes) (hk : headerKind bytes ≠ kindPlayBlock)
    (hz : zeroCommand (rawByte bytes 1) (bytes.drop 6)) : carriesZero bytes := ⟨[], bytes, [], by simp, hlen, hk, hz⟩

/-- From `h` to `g` assembly has taken `bytes`: N is moved only by a message in what was gathered and `bytes`, and what is gathered then is
the end of these, so that later bytes complete no other message. -/
structure Hub.Assembles (bytes : List Byte) (h g : Hub) : Prop where
  time : Hub.TimeMoves (carriesZero (h.link.gathered ++ bytes)) h g
  gathered : g.link.gathered = [] ∨ g.link.gathered = h.link.gathered ++ bytes

theorem Hub.dispatch_time (h : Hub) (kind : Nat) (code : Byte) (tag : Tag) (body : List Byte) :
    Hub.TimeMoves (kind ≠ kindPlayBlock ∧ zeroCommand code body) h (h.dispatch kind code tag body) := by
  unfold Hub.dispatch
  dsimp only
  split
  · exact .of_within (bs := [.engine, .link, .linkState]) (by decide)
      (((Hub.Within.rfl' _ h).withAssembly (by decide) (by decide) _).takePlayBlock (by decide) (by decide) body)
  · rename_i hk
    have cmd := (h.withAssembly (.gather [])).command_time code tag body
    exact ((Hub.TimeMoves.rfl' _ h).withLink _).trans (cmd.mono fun hz => ⟨hk, hz⟩)

theorem Hub.dispatch_gathered (h : Hub) (kind : Nat) (code : Byte) (tag : Tag) (body : List Byte) :
    (h.dispatch kind code tag body).link.gathered = [] := by
  have : (h.dispatch kind code tag body).link.assembly = .gather [] := by
    unfold Hub.dispatch
    dsimp only
    split
    · have w : Hub.Within [.engine, .link] (h.withAssembly (.gather [])) ((h.withAssembly (.gather [])).takePlayBlock body) :=
        (Hub.Within.rfl' _ _).takePlayBlock (by decide) (by decide) body
      exact (w.linkState (by decide)).assembly
    · exact Hub.command_assembly _ code tag body
  unfold Link.gathered
  rw [this]

/-- A message that has grown to `bytes`, all of which assembly has taken. -/
theorem Hub.grown_assembles {h : Hub} {taken bytes : List Byte} (hb : bytes = h.link.gathered ++ taken) :
    Hub.Assembles taken h (h.grown bytes) := by
  subst hb
  unfold Hub.grown
  split
  · rename_i hlen
    exact ⟨(h.dispatch_time _ _ _ _).mono fun ⟨hk, hz⟩ => carriesZero_of_whole hlen hk hz, .inl (h.dispatch_gathered _ _ _ _)⟩
  · exact ⟨.of_clock_eq rfl, .inr rfl⟩

theorem Hub.linkError_assembles (h : Hub) (taken : List Byte) {a : Assembly} (ha : (h.withAssembly a).link.gathered = []) (k : LinkErrorKind) :
    Hub.Assembles taken h ((h.withAssembly a).linkError k) := by
  refine ⟨.of_clock_eq rfl, .inl ?_⟩
  unfold Link.gathered at ha ⊢
  unfold Hub.linkError
  simpa using ha

theorem Hub.headerComplete_assembles {h : Hub} {taken header : List Byte} (hb : header = h.link.gathered ++ taken) :
    Hub.Assembles taken h (h.headerComplete header) := by
  unfold Hub.headerComplete
  split
  · exact h.linkError_assembles taken rfl _
  · split
    · exact h.linkError_assembles taken rfl _
    · split
      · refine h.linkError_assembles taken ?_ _
        split <;> rfl
      · exact Hub.grown_assembles hb

theorem Hub.takeByte_assembles (h : Hub) (b : Byte) : Hub.Assembles [b] h (h.takeByte b) := by
  unfold Hub.takeByte
  dsimp only
  split
  · rename_i got ha
    have hg : h.link.gathered = got := by
      unfold Link.gathered
      rw [ha]
    rw [← hg]
    split
    · exact ⟨.of_clock_eq rfl, .inr rfl⟩
    · split
      · exact Hub.headerComplete_assembles rfl
      · exact Hub.grown_assembles rfl
  · refine ⟨.of_clock_eq rfl, .inl ?_⟩
    split <;> rfl
  · rename_i ha
    refine ⟨.rfl' _ h, .inl ?_⟩
    unfold Link.gathered
    rw [ha]

/-- Assembly takes bytes one by one; what is gathered when it goes on is the end of what it has taken. -/
theorem feed_time (bytes : List Byte) : ∀ h : Hub, Hub.TimeMoves (carriesZero (h.link.gathered ++ bytes)) h (feed bytes h).1 := by
  induction bytes with
  | nil => exact fun h => .rfl' _ h
  | cons b rest ih =>
    intro h
    unfold feed
    split
    · exact .rfl' _ h
    · have first := h.takeByte_assembles b
      have split_at : h.link.gathered ++ b :: rest = (h.link.gathered ++ [b]) ++ rest := by simp
      rw [split_at]
      refine (first.time.mono fun hz => hz.extend [] rest).trans ((ih (h.takeByte b)).mono fun hz => ?_)
      obtain e | e := first.gathered <;> rw [e] at hz
      · simpa using hz.extend (h.link.gathered ++ [b]) []
      · exact hz

theorem Hub.takeBytes_time (h : Hub) (bytes : List Byte) (ends : Bool) :
    Hub.TimeMoves (carriesZero (h.link.gathered ++ bytes)) h (h.takeBytes bytes ends) := by
  have wf := feed_time bytes h
  unfold Hub.takeBytes
  dsimp only
  split
  · exact wf.withLink _
  · split
    · exact (wf.withLink _).trans (.of_within (bs := [.link, .linkState]) (by decide)
        ((Hub.Within.rfl' _ _).transferEnd (by decide) (by decide)))
    · exact wf.withLink _

theorem Hub.outPacket_time (h : Hub) (bytes : List Byte) :
    Hub.TimeMoves (carriesZero (h.link.gathered ++ bytes)) h (h.outPacket bytes) := by
  unfold Hub.outPacket
  split
  · exact h.takeBytes_time bytes _
  · exact .rfl' _ h

theorem Hub.dispatchResume_time (h : Hub) : Hub.TimeMoves
    ((∃ c, h.link.paused = some c ∧ zeroCommand c.code c.body) ∨ carriesZero (h.link.gathered ++ h.link.behind)) h h.dispatchResume := by
  unfold Hub.dispatchResume
  split
  · exact .rfl' _ h
  · rename_i c hc
    split
    · have run := ((Hub.TimeMoves.rfl' _ h).withLink { h.link with paused := none }).trans
        (Hub.runCommand_time _ c.code c.tag (fun g ctx => anyHandler_time c.code g ctx c.body))
      have same : ((h.withLink { h.link with paused := none }).runCommand c.code (anyHandler c.code) c.tag c.body).link.gathered =
          h.link.gathered := by
        unfold Link.gathered
        rw [Hub.runCommand_assembly, anyHandler_assembly]
        rfl
      refine (run.mono fun hz => .inl ⟨c, hc, hz⟩).trans ((Hub.takeBytes_time _ _ _).mono fun hz => .inr ?_)
      rwa [same] at hz
    · exact .rfl' _ h

/-! ### The frame boundary -/

/-- Past N the boundary's work leaves the Media Clock out (R1). -/
theorem Hub.frameBoundary_within {h : Hub} (hs : h.clock.switching = false) (m : Nat) (wire : List (List SlotWord)) :
    Hub.Within (.ports :: .draws :: cueBlocks) h.advanceN (h.frameBoundary m wire) := by
  have start : Hub.Within (.ports :: .draws :: cueBlocks) h.advanceN h.advanceN := .rfl' _ _
  unfold Hub.frameBoundary
  rw [if_neg (by simp [hs])]
  exact (((((((((start.portsBegin (by decide) (by decide) _ _).fireDue (by decide) _).outputsAtBoundary (by decide) _).metersPeriodEnd
    (by decide) (by decide) (by decide) (by decide) _).talliesAtBoundary (by decide) _).settlePlay (by decide) (by decide)
    _).captureWrite (by decide) (by decide) _).portsShiftOut (by decide)).metersSample (by decide) (by decide) _).drawn (by decide)

theorem Hub.frameBoundary_clock {h : Hub} (hs : h.clock.switching = false) (m : Nat) (wire : List (List SlotWord)) :
    (h.frameBoundary m wire).clock = { h.clock with n := h.clock.n + 1 } := (Hub.frameBoundary_within hs m wire).clock (by decide)

/-- During a crystal switch no boundary occurs (R3). -/
theorem Hub.frameBoundary_switching {h : Hub} (hs : h.clock.switching = true) (m : Nat) (wire : List (List SlotWord)) :
    h.frameBoundary m wire = h := if_pos hs

/-- Settles O9: the boundary's stages past N keep out of the Media Clock, and during a crystal switch there are none. -/
theorem frameBoundaryAdvancesN : Obligations.FrameBoundaryAdvancesN := by
  intro s m wire
  refine ⟨fun hf => ?_, fun hs => ?_, fun hr => ?_⟩
  · have w := Hub.frameBoundary_within hf.2 m wire
    exact ⟨_, exec_frameBoundary hf m wire, w.clock (by decide), (w.resetN (by decide)).trans hf.1,
      ((Hub.Within.rfl' _ s.hub).frameBoundary (fun _ hx => hx) m wire).linkState (by decide)⟩
  · show s.onLive (fun h => h.frameBoundary m wire) = _
    rw [State.onLive_eq]
    simp only [Hub.frameBoundary_switching hs, ite_self]
  · exact State.onLive_becomes hr (fun h => h.withClock { h.clock with switching := false })

/-! ### Rows -/

theorem State.becomes_inj {s : State} {h g : Hub} (e : s.becomes h = s.becomes g) : h = g := by
  unfold State.becomes at e
  simpa using e

/-- FRAME_BOUNDARY advances N by one, or changes nothing (R1, R3, R183). -/
theorem execFrameBoundary_clock (s : State) (m : Nat) (wire : List (List SlotWord)) {h : Hub}
    (e : exec (.frameBoundary m wire) s = s.becomes h) :
    h.clock = s.hub.clock ∨ h.clock = { s.hub.clock with n := s.hub.clock.n + 1 } := by
  obtain rfl := State.becomes_inj (s := s) (h := if s.hub.resetN then s.hub.frameBoundary m wire else s.hub) e
  split
  · cases hs : s.hub.clock.switching with
    | true => exact .inl (by rw [Hub.frameBoundary_switching hs])
    | false => exact .inr (Hub.frameBoundary_clock hs m wire)
  · exact .inl rfl

theorem Hub.TimeMoves.of_onHub {P : Prop} {s : State} {h : Hub} {f : Hub → Hub} (hf : Hub.TimeMoves P s.hub (f s.hub))
    (e : s.onHub f = s.becomes h) : Hub.TimeMoves P s.hub h := by
  obtain rfl := State.becomes_inj (s := s) (h := f s.hub) e
  exact hf

theorem Hub.TimeMoves.of_onLive {P : Prop} {s : State} {h : Hub} {f : Hub → Hub} (hf : Hub.TimeMoves P s.hub (f s.hub))
    (e : s.onLive f = s.becomes h) : Hub.TimeMoves P s.hub h := by
  refine .of_onHub ?_ e
  split
  · exact hf
  · exact .rfl' _ _

/-- A row whose frame leaves the Media Clock out. -/
theorem exec_time_of_touches {P : Prop} {i : Instr} (hi : Block.clock ∉ touches i) {s : State} {h : Hub} (e : exec i s = s.becomes h) :
    Hub.TimeMoves P s.hub h := by
  obtain ⟨g, eg, w⟩ := exec_within i s
  obtain rfl := State.becomes_inj (eg.symm.trans e)
  exact .of_within hi w

/-- SET_CLOCK sets N to 0 with a change of rate that nothing blocks (R13, R14). -/
theorem execSetClock_time {tag : Tag} {body : List Byte} {s : State} {h : Hub} (e : exec (.setClock tag body) s = s.becomes h) :
    Hub.TimeMoves (body.length = 2 ∧ h.clock.rate ≠ s.hub.clock.rate ∧ s.hub.rateFree) s.hub h := by
  obtain rfl := State.becomes_inj (s := s) (h := s.hub.command 0x01 setClock tag body) e
  obtain ec | ec := s.hub.command_clock_cases 0x01 setClock tag body
  · exact .of_clock_eq ec
  · rw [ec]
    exact (((Hub.TimeMoves.rfl' _ _).withLink s.hub.link.takeEntry).trans (setClock_time _ _ body)).trans (.of_clock_eq ec)

/-- When a row that sets N to 0 may do so; for SET_CLOCK with what it changes then. -/
def zeroesN (s : State) (i : Instr) (h : Hub) : Prop :=
  mayZeroN s.hub i ∧ ∀ tag body, i = .setClock tag body → h.clock.rate ≠ s.hub.clock.rate ∧ s.hub.rateFree

/-- What a row other than FRAME_BOUNDARY does to N: nothing, or it sets N to 0 as `zeroesN` says. -/
theorem exec_time {i : Instr} (hi : ∀ m w, i ≠ .frameBoundary m w) {s : State} {h : Hub} (e : exec i s = s.becomes h) :
    Hub.TimeMoves (zeroesN s i h) s.hub h := by
  have same : ∀ P, Hub.TimeMoves P s.hub s.hub := fun P => .rfl' P s.hub
  cases i
  case frameBoundary m w => exact absurd rfl (hi m w)
  case powerOnReset =>
    exact .of_onHub ⟨.inr ⟨rfl, trivial, fun _ _ n => nomatch n⟩, fun _ => ⟨withinPull_nominal, withinPull_nominal⟩⟩ e
  case crystalSwitchDone =>
    exact .of_onLive (f := fun h => h.withClock { h.clock with switching := false }) ((same _).withClock ⟨rfl, rfl, rfl⟩) e
  case wckiEdge p k => exact .of_onLive ((same _).wckiEdge p k) e
  case rateMeasurementComplete p k =>
    refine .of_onLive ?_ e
    split
    · exact (same _).wckiEdge p k
    · exact same _
  case acquireLock ev =>
    refine .of_onLive ?_ e
    split
    · exact (same _).referenceEvent ev
    · exact same _
  case referenceTimeout => exact .of_onLive (same _).referenceTimeout e
  case acquireTimeout => exact .of_onLive (same _).acquireTimeout e
  case linkCorrectionRecord f p =>
    refine .of_onLive ?_ e
    split
    · exact (same _).startOfFrame f p
    · exact same _
  case linkReferenceReturn f p =>
    refine .of_onLive ?_ e
    split
    · exact (same _).startOfFrame f p
    · exact same _
  case startOfFrame f p => exact .of_onLive ((same _).startOfFrame f p) e
  case setClock tag body =>
    exact (execSetClock_time e).mono fun ⟨hl, hr, hf⟩ => ⟨.inl ⟨rfl, hl⟩, fun _ _ _ => ⟨hr, hf⟩⟩
  case outPacket bytes =>
    exact .of_onLive ((s.hub.outPacket_time bytes).mono fun hz => ⟨hz, fun _ _ n => nomatch n⟩) e
  case dispatchResume => exact .of_onLive (s.hub.dispatchResume_time.mono fun hz => ⟨hz, fun _ _ n => nomatch n⟩) e
  case resetPart tag body =>
    exact .of_onHub ((s.hub.command_time 0x71 tag body).mono fun hz => ⟨hz, fun _ _ n => nomatch n⟩) e
  all_goals exact exec_time_of_touches (by simp [touches, cueBlocks]) e

/-- Settles O55: the frame boundary advances N, and every other row moves N as `exec_time` says. -/
theorem timelineKept : Obligations.TimelineKept := by
  intro s t hstep
  unfold step at hstep
  split at hstep
  · cases hstep
    exact ⟨.inl rfl, id⟩
  · rename_i i rest hp
    obtain ⟨h, e, -⟩ := exec_within i { s with pending := rest }
    rw [e] at hstep
    cases hstep
    by_cases hb : ∃ m w, i = .frameBoundary m w
    · obtain ⟨m, w, rfl⟩ := hb
      obtain ec | ec := execFrameBoundary_clock _ m w e
      · exact ⟨.inl (by rw [ec]), by rw [ec]; exact id⟩
      · exact ⟨.inr (.inl ⟨by rw [ec], m, w, rest, hp⟩), by rw [ec]; exact id⟩
    · have w := exec_time (fun m w ei => hb ⟨m, w, ei⟩) e
      refine ⟨?_, w.fits⟩
      obtain en | ⟨e0, hz, hset⟩ := w.n
      · exact .inl en
      · exact .inr (.inr ⟨e0, i, rest, hp, hz, hset⟩)

end Sys2Proof.Machine
end

section
/-! ## Reference events: WCKI edges, measurements, start-of-frames, timeouts -/

namespace Sys2Proof.Machine

/-! ### WCKI edges (R4, R6, R7) -/

theorem Hub.wckiEdge_of_not_wordIn {h : Hub} (hs : h.clock.source ≠ .wordIn) (p : Ratio) (k : Nat) : h.wckiEdge p k = h := if_neg hs

theorem Hub.wckiEdge_of_wordIn {h : Hub} (hs : h.clock.source = .wordIn) (p : Ratio) (k : Nat) :
    h.wckiEdge p k = (h.lockEvent p).measureEdge h.clock k := if_pos hs

/-- The Media Clock after an edge that is counted in the measurement, or starts one (R6, R9). -/
def MediaClock.countEdge (c before : MediaClock) (cycles : Nat) : MediaClock :=
  match c.measurement with
  | none => { c with measurement := some ⟨0, 0⟩, window := ⟨0, 1⟩ }
  | some m => { c with
      measurement := some ⟨m.edges + 1, m.count + cycles⟩, window := ratioPlus before.window (ratioTimes before.inForce cycles) }

theorem Hub.measureEdge_counts {h : Hub} (hm : ∀ m, h.clock.measurement = some m → m.edges < 255) (before : MediaClock) (k : Nat) :
    h.measureEdge before k = h.withClock (h.clock.countEdge before k) := by
  unfold Hub.measureEdge MediaClock.countEdge
  cases e : h.clock.measurement with
  | none => rfl
  | some m => exact if_neg (by have := hm m e; omega)

theorem Hub.measureEdge_ends {h : Hub} {m : Measurement} (hm : h.clock.measurement = some m) (he : 255 ≤ m.edges) (before : MediaClock)
    (k : Nat) : h.measureEdge before k =
      (h.withClock { h.clock with measurement := some ⟨0, 0⟩, window := ⟨0, 1⟩ }).measurementEnd (m.count + k)
        (before.windowMean k (m.count + k)) := by
  unfold Hub.measureEdge
  rw [hm]
  exact if_pos he

theorem Hub.measurementDue_iff {h : Hub} (hs : h.clock.source = .wordIn) :
    h.measurementDue = true ↔ ∃ m, h.clock.measurement = some m ∧ 255 ≤ m.edges := by
  unfold Hub.measurementDue
  cases h.clock.measurement <;> simp [hs]

/-- No lock's share of an event touches the measurement. -/
theorem Hub.lockEvent_measurement (h : Hub) (p : Ratio) : (h.lockEvent p).clock.measurement = h.clock.measurement := by
  rw [h.lockEvent_keeps p]

/-- An edge with WORD_IN that does not end a measurement: the lock's share, then the count. -/
theorem Hub.wckiEdge_counts {h : Hub} (hs : h.clock.source = .wordIn) (hd : h.measurementDue = false) (p : Ratio) (k : Nat) :
    h.wckiEdge p k = (h.lockEvent p).withClock ((h.lockEvent p).clock.countEdge h.clock k) := by
  rw [Hub.wckiEdge_of_wordIn hs]
  refine Hub.measureEdge_counts (fun m hm => ?_) _ _
  rw [Hub.lockEvent_measurement] at hm
  refine Nat.lt_of_not_le fun he => ?_
  rw [(Hub.measurementDue_iff hs).mpr ⟨m, hm, he⟩] at hd
  cases hd

theorem Hub.wckiEdge_ends {h : Hub} (hs : h.clock.source = .wordIn) {m : Measurement} (hm : h.clock.measurement = some m)
    (he : 255 ≤ m.edges) (p : Ratio) (k : Nat) : h.wckiEdge p k =
      ((h.lockEvent p).withClock { (h.lockEvent p).clock with measurement := some ⟨0, 0⟩, window := ⟨0, 1⟩ }).measurementEnd (m.count + k)
        (h.clock.windowMean k (m.count + k)) := by
  rw [Hub.wckiEdge_of_wordIn hs]
  exact Hub.measureEdge_ends ((h.lockEvent_measurement p).trans hm) he _ _

/-! ### The event that locks (R7) -/

theorem MediaClock.runAfter_acquiring {c : MediaClock} (hs : c.state = .acquiring) (p : Ratio) :
    c.runAfter p = if withinBound p then min 64 (c.lockRun + 1) else 0 := if_pos hs

theorem MediaClock.runAfter_eq_64_iff {c : MediaClock} (hs : c.state = .acquiring) (p : Ratio) :
    c.runAfter p = 64 ↔ withinBound p = true ∧ 63 ≤ c.lockRun := by
  rw [MediaClock.runAfter_acquiring hs]
  split
  · rename_i hb
    exact ⟨fun h => ⟨hb, by omega⟩, fun ⟨_, h⟩ => by omega⟩
  · rename_i hb
    exact ⟨fun h => absurd h (by decide), fun ⟨h, _⟩ => absurd h hb⟩

/-- The lock is due at a reference event exactly when the event's share in the lock makes the state LOCKED. -/
theorem Hub.lockDue_iff (h : Hub) (ev : RefEvent) :
    h.lockDue ev = true ↔ h.isReference ev = true ∧ h.clock.locksAt (referencePhase ev) := by
  unfold Hub.lockDue MediaClock.locksAt
  simp only [Bool.and_eq_true, Bool.or_eq_true, decide_eq_true_eq]
  constructor
  · rintro ⟨⟨⟨⟨hr, hb⟩, hs⟩, hl⟩, hm⟩
    exact ⟨hr, hs, (MediaClock.runAfter_eq_64_iff hs _).mpr ⟨hb, hl⟩, hm⟩
  · rintro ⟨hr, hs, h64, hm⟩
    obtain ⟨hb, hl⟩ := (MediaClock.runAfter_eq_64_iff hs _).mp h64
    exact ⟨⟨⟨⟨hr, hb⟩, hs⟩, hl⟩, hm⟩

/-- With WORD_IN the other half of the lock condition is the matching-measurement record. -/
theorem MediaClock.locksAt_wordIn {c : MediaClock} (hs : c.source = .wordIn) (p : Ratio) :
    c.locksAt p ↔ c.state = .acquiring ∧ c.runAfter p = 64 ∧ c.matched = true := by
  unfold MediaClock.locksAt
  simp [hs]

/-! ### The end of a measurement (R6, R9, R10) -/

/-- Any two rates differ by 8 % at least. -/
theorem Rate.hz_apart (r q : Rate) : r ≠ q → 108 * r.hz ≤ 100 * q.hz ∨ 108 * q.hz ≤ 100 * r.hz := by
  cases r <;> cases q <;> decide

/-- A count in two windows of plus or minus 0.5 % is of rates that differ by less. -/
theorem inWindow_near {count : Nat} {r q : Rate} (hr : inWindow count r = true) (hq : inWindow count q = true) :
    ¬ 108 * r.hz ≤ 100 * q.hz := by
  intro h
  have scaled := Nat.mul_le_mul_left count h
  rw [Nat.mul_left_comm, Nat.mul_left_comm count] at scaled
  obtain ⟨low, -⟩ := Bool.and_eq_true_iff.mp hr
  obtain ⟨-, high⟩ := Bool.and_eq_true_iff.mp hq
  rw [decide_eq_true_iff] at low high
  unfold xbHz at low high
  omega

/-- R6's windows do not overlap. -/
theorem inWindow_unique {count : Nat} {r q : Rate} (hr : inWindow count r = true) (hq : inWindow count q = true) : r = q :=
  Decidable.byContradiction fun hne => (r.hz_apart q hne).elim (inWindow_near hr hq) (inWindow_near hq hr)

theorem detectRate_eq_some_iff (count : Nat) (r : Rate) : detectRate count = some r ↔ inWindow count r = true := by
  constructor
  · exact fun h => List.find?_some h
  · intro h
    have hm : r ∈ Rate.all := by cases r <;> decide
    obtain ⟨q, hq⟩ := Option.isSome_iff_exists.mp (List.find?_isSome.mpr ⟨r, hm, h⟩)
    rw [inWindow_unique h (List.find?_some hq)]
    exact hq

section measurementEnd

variable {h : Hub} {count : Nat} {mean : Ratio} {d : Option Rate}

theorem Hub.measurementEnd_internal (hc : detectRate count = d) (hs : h.clock.state = .internal) :
    h.measurementEnd count mean = h.withClock { h.clock with detected := d } := by
  unfold Hub.measurementEnd
  rw [hc, hs]

theorem Hub.measurementEnd_acquiring_match (hc : detectRate count = d) (hs : h.clock.state = .acquiring) (hd : d = some h.clock.rate) :
    h.measurementEnd count mean = (h.withClock { h.clock with detected := d, matched := true }).tryLock := by
  unfold Hub.measurementEnd
  rw [hc, hs]
  exact if_pos hd

/-- A match that finds the lock run at 64 locks (R7). -/
theorem Hub.measurementEnd_acquiring_locks (hc : detectRate count = d) (hs : h.clock.state = .acquiring) (hd : d = some h.clock.rate)
    (h64 : h.clock.lockRun = 64) : h.measurementEnd count mean =
      (h.withClock { h.clock with detected := d, matched := true, state := .locked, timer := none, refRun := 0 }).postClock .locked :=
  (Hub.measurementEnd_acquiring_match hc hs hd).trans (Hub.tryLock_of_locks ⟨hs, h64, .inr rfl⟩)

theorem Hub.measurementEnd_acquiring_waits (hc : detectRate count = d) (hs : h.clock.state = .acquiring) (hd : d = some h.clock.rate)
    (h64 : h.clock.lockRun ≠ 64) :
    h.measurementEnd count mean = h.withClock { h.clock with detected := d, matched := true } :=
  (Hub.measurementEnd_acquiring_match hc hs hd).trans (Hub.tryLock_of_not_locks fun hl => h64 hl.2.1)

theorem Hub.measurementEnd_acquiring_other (hc : detectRate count = d) (hs : h.clock.state = .acquiring) (hd : d ≠ some h.clock.rate) :
    h.measurementEnd count mean = (h.withClock { h.clock with detected := d }).enterHoldover.postClock .rateMismatch := by
  unfold Hub.measurementEnd
  rw [hc, hs]
  exact if_neg hd

theorem Hub.measurementEnd_locked_match (hc : detectRate count = d) (hs : h.clock.state = .locked) (hd : d = some h.clock.rate) :
    h.measurementEnd count mean = (h.withClock { h.clock with detected := d }).recordHeld mean := by
  unfold Hub.measurementEnd
  rw [hc, hs]
  exact if_pos hd

theorem Hub.measurementEnd_locked_other (hc : detectRate count = d) (hs : h.clock.state = .locked) (hd : d ≠ some h.clock.rate) :
    h.measurementEnd count mean = (h.withClock { h.clock with detected := d }).enterHoldover.postClock .referenceLost := by
  unfold Hub.measurementEnd
  rw [hc, hs]
  exact if_neg hd

theorem Hub.measurementEnd_holdover_match (hc : detectRate count = d) (hs : h.clock.state = .holdover) (hd : d = some h.clock.rate) :
    h.measurementEnd count mean = ((h.withClock { h.clock with detected := d }).enterAcquiring true).postClock .sourceChanged := by
  unfold Hub.measurementEnd
  rw [hc, hs]
  exact if_pos hd

theorem Hub.measurementEnd_holdover_other (hc : detectRate count = d) (hs : h.clock.state = .holdover) (hd : d ≠ some h.clock.rate) :
    h.measurementEnd count mean = h.withClock { h.clock with detected := d } := by
  unfold Hub.measurementEnd
  rw [hc, hs]
  exact if_neg hd

end measurementEnd

/-- Trying the lock changes the state, the timer and the reference count alone. -/
theorem Hub.tryLock_keeps (h : Hub) : h.tryLock.clock = { h.clock with
    state := h.tryLock.clock.state, timer := h.tryLock.clock.timer, refRun := h.tryLock.clock.refRun } := by
  by_cases hl : h.clock.locks
  · rw [Hub.tryLock_of_locks hl]
    rfl
  · rw [Hub.tryLock_of_not_locks hl]

/-- Whatever the state, the end of a measurement sets the detected rate and keeps N, the rate and the measurement begun. -/
theorem Hub.measurementEnd_keeps (h : Hub) (count : Nat) (mean : Ratio) :
    (h.measurementEnd count mean).clock.n = h.clock.n ∧ (h.measurementEnd count mean).clock.rate = h.clock.rate ∧
      (h.measurementEnd count mean).clock.measurement = h.clock.measurement ∧
      (h.measurementEnd count mean).clock.detected = detectRate count := by
  generalize hc : detectRate count = d
  by_cases hd : d = some h.clock.rate
  · cases hs : h.clock.state with
    | internal => simp [Hub.measurementEnd_internal hc hs]
    | acquiring =>
      rw [Hub.measurementEnd_acquiring_match hc hs hd, Hub.tryLock_keeps]
      exact ⟨rfl, rfl, rfl, rfl⟩
    | locked => simp [Hub.measurementEnd_locked_match hc hs hd]
    | holdover => simp [Hub.measurementEnd_holdover_match hc hs hd]
  · cases hs : h.clock.state with
    | internal => simp [Hub.measurementEnd_internal hc hs]
    | acquiring => simp [Hub.measurementEnd_acquiring_other hc hs hd]
    | locked => simp [Hub.measurementEnd_locked_other hc hs hd]
    | holdover => simp [Hub.measurementEnd_holdover_other hc hs hd]

/-- Only a match can move the held correction (R9). -/
theorem Hub.measurementEnd_held_of_other {h : Hub} {count : Nat} (hd : detectRate count ≠ some h.clock.rate) (mean : Ratio) :
    (h.measurementEnd count mean).clock.held = h.clock.held := by
  generalize hc : detectRate count = d at hd
  cases hs : h.clock.state with
  | internal => simp [Hub.measurementEnd_internal hc hs]
  | acquiring => simp [Hub.measurementEnd_acquiring_other hc hs hd]
  | locked => simp [Hub.measurementEnd_locked_other hc hs hd]
  | holdover => simp [Hub.measurementEnd_holdover_other hc hs hd]

/-! ### Start-of-frames (R4, R16) -/

/-- Pairing an event sets the anchor and the link frames since it, and nothing else (R4). -/
theorem MediaClock.pairLink_keeps (c : MediaClock) (p : Ratio) (step : Nat) : c.pairLink p step =
    { c with anchor := (c.pairLink p step).anchor, sinceAnchor := (c.pairLink p step).sinceAnchor } := by
  unfold MediaClock.pairLink
  split <;> rfl

/-- The first event after an entry takes the nearest boundary as the anchor. -/
theorem MediaClock.pairLink_first {c : MediaClock} (ha : c.anchor = none) (p : Ratio) (step : Nat) :
    (c.pairLink p step).anchor = some (if 0 ≤ p.num then c.n - 1 else c.n) ∧ (c.pairLink p step).sinceAnchor = 0 := by
  unfold MediaClock.pairLink
  simp [ha]

/-- Each later event keeps the anchor and counts the link frames since. -/
theorem MediaClock.pairLink_later {c : MediaClock} {b : Nat} (ha : c.anchor = some b) (p : Ratio) (step : Nat) :
    (c.pairLink p step).anchor = some b ∧ (c.pairLink p step).sinceAnchor = c.sinceAnchor + step := by
  unfold MediaClock.pairLink
  simp [ha]

section linkEvent

variable {h : Hub} {p : Ratio} {step : Nat}

/-- The hub with the event paired and the clock steered, as every clock state finds it. -/
def Hub.paired (h : Hub) (p : Ratio) (step : Nat) : Hub := (h.withClock (h.clock.pairLink p step)).steerAtEvent

@[simp] theorem Hub.paired_link (h : Hub) (p : Ratio) (step : Nat) : (h.paired p step).link = h.link := by
  unfold Hub.paired
  simp

theorem Hub.paired_clock (h : Hub) (p : Ratio) (step : Nat) : ∃ x, (h.paired p step).clock = { h.clock with
    anchor := (h.clock.pairLink p step).anchor, sinceAnchor := (h.clock.pairLink p step).sinceAnchor, steered := x } := by
  unfold Hub.paired
  rw [Hub.steerAtEvent_clock, Hub.withClock_clock, MediaClock.pairLink_keeps]
  exact ⟨_, rfl⟩

theorem Hub.linkEvent_internal (hs : h.clock.state = .internal) : h.linkEvent p step = h.paired p step := by
  unfold Hub.linkEvent
  rw [hs]
  rfl

theorem Hub.linkEvent_acquiring (hs : h.clock.state = .acquiring) :
    h.linkEvent p step = (h.withClock (h.clock.pairLink p step)).lockEvent p := by
  unfold Hub.linkEvent
  rw [hs]
  rfl

theorem Hub.paired_refRun (h : Hub) (p : Ratio) (step : Nat) : (h.paired p step).clock.refRun = h.clock.refRun := by
  obtain ⟨x, e⟩ := h.paired_clock p step
  rw [e]

theorem Hub.linkEvent_locked_due (hs : h.clock.state = .locked) (hr : 255 ≤ h.clock.refRun) :
    h.linkEvent p step =
      ((h.paired p step).withClock { (h.paired p step).clock with refRun := 0 }).recordHeld h.clock.steered := by
  unfold Hub.linkEvent
  rw [hs]
  exact if_pos ((h.paired_refRun p step).symm ▸ hr)

theorem Hub.linkEvent_holdover_due (hs : h.clock.state = .holdover) (hr : 255 ≤ h.clock.refRun) :
    h.linkEvent p step = ((h.paired p step).enterAcquiring true).postClock .sourceChanged := by
  unfold Hub.linkEvent
  rw [hs]
  exact if_pos ((h.paired_refRun p step).symm ▸ hr)

theorem Hub.linkEvent_counts (hs : h.clock.state = .locked ∨ h.clock.state = .holdover) (hr : h.clock.refRun < 255) :
    h.linkEvent p step = (h.paired p step).withClock { (h.paired p step).clock with refRun := (h.paired p step).clock.refRun + 1 } := by
  have hn : ¬ 255 ≤ (h.paired p step).clock.refRun := by
    rw [h.paired_refRun p step]
    omega
  unfold Hub.linkEvent
  obtain hs | hs := hs <;> rw [hs] <;> exact if_neg hn

end linkEvent

/-- Whatever the clock state, an event of the link keeps the source, the rate and the detected rate. -/
theorem Hub.linkEvent_keeps (h : Hub) (p : Ratio) (step : Nat) :
    (h.linkEvent p step).clock.rate = h.clock.rate ∧ (h.linkEvent p step).clock.source = h.clock.source ∧
      (h.linkEvent p step).clock.detected = h.clock.detected := by
  obtain ⟨x, e⟩ := h.paired_clock p step
  have counts := Hub.linkEvent_counts (h := h) (p := p) (step := step)
  cases hs : h.clock.state with
  | internal => simp [Hub.linkEvent_internal hs, e]
  | acquiring =>
    rw [Hub.linkEvent_acquiring hs, Hub.lockEvent_keeps, MediaClock.pairLink_keeps]
    exact ⟨rfl, rfl, rfl⟩
  | locked =>
    by_cases hr : 255 ≤ h.clock.refRun
    · simp [Hub.linkEvent_locked_due hs hr, e]
    · simp [counts (.inl hs) (by omega), e]
  | holdover =>
    by_cases hr : 255 ≤ h.clock.refRun
    · simp [Hub.linkEvent_holdover_due hs hr, e]
    · simp [counts (.inr hs) (by omega), e]

/-- Unless it leads from HOLDOVER to ACQUIRING, the event keeps the pairing it made (R4). -/
theorem Hub.linkEvent_anchor {h : Hub} (hn : h.clock.state ≠ .holdover ∨ h.clock.refRun < 255) (p : Ratio) (step : Nat) :
    (h.linkEvent p step).clock.anchor = (h.clock.pairLink p step).anchor ∧
      (h.linkEvent p step).clock.sinceAnchor = (h.clock.pairLink p step).sinceAnchor := by
  obtain ⟨x, e⟩ := h.paired_clock p step
  have counts := Hub.linkEvent_counts (h := h) (p := p) (step := step)
  cases hs : h.clock.state with
  | internal => simp [Hub.linkEvent_internal hs, e]
  | acquiring =>
    rw [Hub.linkEvent_acquiring hs, Hub.lockEvent_keeps]
    exact ⟨rfl, rfl⟩
  | locked =>
    by_cases hr : 255 ≤ h.clock.refRun
    · simp [Hub.linkEvent_locked_due hs hr, e]
    · simp [counts (.inl hs) (by omega), e]
  | holdover =>
    have hr : h.clock.refRun < 255 := hn.resolve_left (fun n => n hs)
    simp [counts (.inr hs) hr, e]

end Sys2Proof.Machine
end

section
/-! ## Chapter 1: reference events, measurements, timeouts and start-of-frames as the rows take them -/

namespace Sys2Proof.Machine

/-! ### WCKI_EDGE and ACQUIRE_LOCK -/

theorem exec_wckiEdge {s : State} (hr : s.hub.resetN = true) (p : Ratio) (k : Nat) :
    exec (.wckiEdge p k) s = s.becomes (s.hub.wckiEdge p k) := State.onLive_becomes hr (fun h => h.wckiEdge p k)

/-- An event that changes nothing leaves the state as it was, whether RESET_N is low or high. -/
theorem State.onLive_same {s : State} {f : Hub → Hub} (hf : f s.hub = s.hub) : s.onLive f = .next s := by
  rw [State.onLive_eq, hf, ite_self]

theorem Hub.within_wckiEdge (h : Hub) (p : Ratio) (k : Nat) : Hub.Within [.clock, .draws, .link] h (h.wckiEdge p k) :=
  (Hub.Within.rfl' _ h).wckiEdge (by decide) (by decide) (by decide) p k

theorem Hub.within_startOfFrame (h : Hub) (f : BitVec 11) (p : Ratio) :
    Hub.Within [.clock, .draws, .link, .linkState] h (h.startOfFrame f p) :=
  (Hub.Within.rfl' _ h).startOfFrame (by decide) (by decide) (by decide) (by decide) f p

/-- Counting an edge changes the measurement and its window alone. -/
theorem MediaClock.countEdge_keeps (c before : MediaClock) (k : Nat) :
    c.countEdge before k = { c with measurement := (c.countEdge before k).measurement, window := (c.countEdge before k).window } := by
  unfold MediaClock.countEdge
  split <;> rfl

/-- A WCKI edge that ends no measurement (R4, R6, R7, R9). -/
theorem Hub.wckiEdge_effect {h : Hub} (hs : h.clock.source = .wordIn) (hd : h.measurementDue = false) (p : Ratio) (k : Nat) :
    let g := h.wckiEdge p k
    g.clock.n = h.clock.n ∧ g.clock.held = h.clock.held ∧ g.clock.rate = h.clock.rate ∧ g.clock.source = .wordIn ∧
      g.clock.detected = h.clock.detected ∧ g.clock.lockRun = h.clock.runAfter p ∧
      (h.clock.locksAt p → g.clock.state = .locked ∧ g.clock.timer = none ∧
        g.link = h.link.post h.clock.n (.clockState .locked .wordIn h.clock.rate h.clock.detected .locked)) ∧
      (¬ h.clock.locksAt p → g.clock.state = h.clock.state ∧ g.clock.timer = h.clock.timer ∧ g.link = h.link) := by
  dsimp only
  rw [Hub.wckiEdge_counts hs hd, MediaClock.countEdge_keeps]
  simp only [Hub.withClock_clock, Hub.withClock_link]
  by_cases hl : h.clock.locksAt p
  · obtain ⟨ec, el⟩ := Hub.lockEvent_of_locks hl
    rw [ec, el]
    exact ⟨rfl, rfl, rfl, hs, rfl, hl.2.1.symm, fun _ => ⟨rfl, rfl, by rw [hs]⟩, fun n => absurd hl n⟩
  · obtain ⟨ec, el⟩ := Hub.lockEvent_of_not_locks hl
    rw [ec, el]
    exact ⟨rfl, rfl, rfl, hs, rfl, rfl, fun y => absurd y hl, fun _ => ⟨rfl, rfl, rfl⟩⟩

/-- The measurement and its window after such an edge (R6, R9). -/
theorem Hub.wckiEdge_measures {h : Hub} (hs : h.clock.source = .wordIn) (hd : h.measurementDue = false) (p : Ratio) (k : Nat) :
    (h.clock.measurement = none → (h.wckiEdge p k).clock.measurement = some ⟨0, 0⟩ ∧ (h.wckiEdge p k).clock.window = ⟨0, 1⟩) ∧
    ∀ m, h.clock.measurement = some m → (h.wckiEdge p k).clock.measurement = some ⟨m.edges + 1, m.count + k⟩ ∧
      (h.wckiEdge p k).clock.window = ratioPlus h.clock.window (ratioTimes h.clock.inForce k) := by
  rw [Hub.wckiEdge_counts hs hd]
  unfold MediaClock.countEdge
  rw [Hub.lockEvent_measurement]
  constructor
  · intro e
    rw [e]
    exact ⟨rfl, rfl⟩
  · intro m e
    rw [e]
    exact ⟨rfl, rfl⟩

/-- The row's reference event, by source, when the lock is due. -/
theorem exec_acquireLock {s : State} (hr : s.hub.resetN = true) {ev : RefEvent} (hd : s.hub.lockDue ev = true) :
    exec (.acquireLock ev) s = s.becomes (s.hub.referenceEvent ev) := by
  have e := State.onLive_becomes hr (fun h => if h.lockDue ev then h.referenceEvent ev else h)
  simp only [hd, if_true] at e
  exact e

theorem Hub.newFrame_iff (h : Hub) (f : BitVec 11) : h.newFrame f = true ↔ h.link.configured = true ∧ h.link.lastFrame ≠ some f := by
  unfold Hub.newFrame
  simp

/-- The hub with the link-frame mark replaced (R16). -/
def Hub.marked (h : Hub) (f : BitVec 11) : Hub := h.withLink { h.link with mark := ⟨f, h.clock.n⟩, lastFrame := some f }

@[simp] theorem Hub.marked_clock (h : Hub) (f : BitVec 11) : (h.marked f).clock = h.clock := rfl
@[simp] theorem Hub.marked_link (h : Hub) (f : BitVec 11) :
    (h.marked f).link = { h.link with mark := ⟨f, h.clock.n⟩, lastFrame := some f } := rfl

theorem Hub.startOfFrame_old {h : Hub} {f : BitVec 11} (hf : h.newFrame f = false) (p : Ratio) : h.startOfFrame f p = h := by
  unfold Hub.startOfFrame
  rw [if_neg (by simp [hf])]

theorem Hub.startOfFrame_new {h : Hub} {f : BitVec 11} (hf : h.newFrame f = true) (p : Ratio) : h.startOfFrame f p =
    if h.clock.source = .linkFrame then (h.marked f).linkEvent p (frameStep h.link.lastFrame f) else h.marked f := if_pos hf

/-- Every start-of-frame keeps N. -/
theorem Hub.startOfFrame_n (h : Hub) (f : BitVec 11) (p : Ratio) : (h.startOfFrame f p).clock.n = h.clock.n :=
  ((Hub.TimeMoves.rfl' False h).startOfFrame f p).n.resolve_right (fun hn => hn.2)

theorem Hub.linkEvent_n (h : Hub) (p : Ratio) (step : Nat) : (h.linkEvent p step).clock.n = h.clock.n :=
  ((Hub.TimeMoves.rfl' False h).linkEvent p step).n.resolve_right (fun hn => hn.2)

/-- A start-of-frame in ACQUIRING: it is paired, moves the lock run, and locks at 64 (R4, R7). -/
theorem Hub.linkEvent_acquiring_effect {h : Hub} (hs : h.clock.state = .acquiring) (hl : h.clock.source = .linkFrame) (p : Ratio) (step : Nat) :
    let g := h.linkEvent p step
    g.clock.held = h.clock.held ∧ g.clock.lockRun = (if withinBound p then min 64 (h.clock.lockRun + 1) else 0) ∧
      (g.clock.lockRun = 64 → g.clock.state = .locked ∧ g.clock.timer = none ∧
        g.link = h.link.post h.clock.n (.clockState .locked .linkFrame h.clock.rate h.clock.detected .locked)) ∧
      (g.clock.lockRun ≠ 64 → g.clock.state = .acquiring ∧ g.clock.timer = h.clock.timer ∧ g.link = h.link) := by
  dsimp only
  have keeps := h.clock.pairLink_keeps p step
  rw [Hub.linkEvent_acquiring hs, ← MediaClock.runAfter_acquiring hs]
  have run : (h.clock.pairLink p step).runAfter p = h.clock.runAfter p := by rw [keeps]; rfl
  have ps : (h.clock.pairLink p step).state = .acquiring := by rw [keeps]; exact hs
  have psrc : (h.clock.pairLink p step).source = .linkFrame := by rw [keeps]; exact hl
  by_cases hk : h.clock.runAfter p = 64
  · obtain ⟨ec, el⟩ := Hub.lockEvent_of_locks (h := h.withClock (h.clock.pairLink p step)) (phase := p) ⟨ps, run.trans hk, .inl psrc⟩
    rw [ec, el, Hub.withClock_clock, Hub.withClock_link, keeps]
    exact ⟨rfl, hk.symm, fun _ => ⟨rfl, rfl, by simp [hl]⟩, fun n => absurd rfl n⟩
  · obtain ⟨ec, el⟩ := Hub.lockEvent_of_not_locks (h := h.withClock (h.clock.pairLink p step)) (phase := p)
      fun ⟨_, h64, _⟩ => hk (run.symm.trans h64)
    rw [ec, el, Hub.withClock_clock, Hub.withClock_link, keeps]
    exact ⟨rfl, rfl, fun y => absurd y hk, fun _ => ⟨hs, rfl, rfl⟩⟩

/-- Settles O5: an edge is the lock's share and the count; the lock is due exactly when that share locks. -/
theorem referenceEdges : Obligations.ReferenceEdges := by
  refine ⟨fun s p k => ⟨fun hs => ?_, fun hr hs hd => ?_⟩, fun s ev hr hdue hm => ?_⟩
  · exact State.onLive_same (Hub.wckiEdge_of_not_wordIn hs p k)
  · obtain ⟨hn, hh, hrate, hsrc, hdet, hrun, hlock, hwait⟩ := Hub.wckiEdge_effect hs hd p k
    obtain ⟨hnone, hsome⟩ := Hub.wckiEdge_measures hs hd p k
    rw [MediaClock.locksAt_wordIn hs, ← hrun] at hlock hwait
    refine ⟨_, exec_wckiEdge hr p k, s.hub.within_wckiEdge p k, hn, hh, hrate, hsrc, hdet, ?_, ?_, hrun, hlock, hwait⟩
    · cases e : s.hub.clock.measurement with
      | none => exact (hnone e).1
      | some m => exact (hsome m e).1
    · cases e : s.hub.clock.measurement with
      | none => exact (hnone e).2
      | some m => exact (hsome m e).2
  · obtain ⟨href, hlocks⟩ := (Hub.lockDue_iff _ _).mp hdue
    refine ⟨_, exec_acquireLock hr hdue, ?_⟩
    cases ev with
    | wcki p k =>
      have hs : s.hub.clock.source = .wordIn := by simpa [Hub.isReference] using href
      obtain ⟨hn, hh, hrate, -, hdet, hrun, hlock, -⟩ := Hub.wckiEdge_effect hs hm p k
      obtain ⟨hst, ht, hl⟩ := hlock hlocks
      refine ⟨hst, hrun.trans hlocks.2.1, ht, hn, hrate, hh, hdet, ?_, (s.hub.within_wckiEdge p k).mono (by decide)⟩
      rw [hs]
      exact congrArg Link.notices hl
    | sof f p =>
      obtain ⟨hf, hs⟩ : s.hub.newFrame f = true ∧ s.hub.clock.source = .linkFrame := by simpa [Hub.isReference] using href
      have within := s.hub.within_startOfFrame f p
      have e : s.hub.referenceEvent (.sof f p) = (s.hub.marked f).linkEvent p (frameStep s.hub.link.lastFrame f) := by
        show s.hub.startOfFrame f p = _
        rw [Hub.startOfFrame_new hf, if_pos hs]
      have hn := (s.hub.marked f).linkEvent_n p (frameStep s.hub.link.lastFrame f)
      obtain ⟨hrate, -, hdet⟩ := (s.hub.marked f).linkEvent_keeps p (frameStep s.hub.link.lastFrame f)
      obtain ⟨hh, hrun, hlock, -⟩ :=
        Hub.linkEvent_acquiring_effect (h := s.hub.marked f) hlocks.1 hs p (frameStep s.hub.link.lastFrame f)
      rw [← e] at hn hrate hdet hh hrun hlock
      have h64 : (s.hub.referenceEvent (.sof f p)).clock.lockRun = 64 :=
        (hrun.trans (MediaClock.runAfter_acquiring hlocks.1 p).symm).trans hlocks.2.1
      obtain ⟨hst, ht, hl⟩ := hlock h64
      refine ⟨hst, h64, ht, hn, hrate, hh, hdet, ?_, within⟩
      rw [hl, hs]
      exact Link.post_notices_eq _ _ _ _ rfl rfl

/-! ### RATE_MEASUREMENT_COMPLETE -/

theorem exec_rateMeasurementComplete {s : State} (hr : s.hub.resetN = true) (hd : s.hub.measurementDue = true) (p : Ratio) (k : Nat) :
    exec (.rateMeasurementComplete p k) s = s.becomes (s.hub.wckiEdge p k) := by
  have e := State.onLive_becomes hr (fun h => if h.measurementDue then h.wckiEdge p k else h)
  simp only [hd, if_true] at e
  exact e

/-- The clock as the end of a measurement finds it, on an edge that does not lock. -/
def MediaClock.measured (c : MediaClock) (p steered : Ratio) : MediaClock :=
  { c with steered := steered, lockRun := c.runAfter p, measurement := some ⟨0, 0⟩, window := ⟨0, 1⟩ }

theorem Hub.wckiEdge_ends_of_not_locks {h : Hub} (hs : h.clock.source = .wordIn) {m : Measurement} (hm : h.clock.measurement = some m)
    (he : 255 ≤ m.edges) {p : Ratio} (hl : ¬ h.clock.locksAt p) (k : Nat) : ∃ g : Hub,
      h.wckiEdge p k = g.measurementEnd (m.count + k) (h.clock.windowMean k (m.count + k)) ∧
        g.clock = h.clock.measured p h.eventSteered ∧ g.link = h.link := by
  obtain ⟨ec, el⟩ := Hub.lockEvent_of_not_locks hl
  refine ⟨_, Hub.wckiEdge_ends hs hm he p k, ?_, el⟩
  rw [Hub.withClock_clock, ec]
  rfl

/-- Settles O6: the edge's count decides the detected rate, and each clock state takes a match or a mismatch as `measurementEnd` says. -/
theorem rateMeasurementComplete : Obligations.RateMeasurementComplete := by
  intro s p k m hr hs hm he hlock
  have due := (Hub.measurementDue_iff hs).mpr ⟨m, hm, he⟩
  have waits : ¬ s.hub.clock.locksAt p := fun hl => by
    have : s.hub.lockDue (.wcki p k) = true := (Hub.lockDue_iff _ _).mpr ⟨by simp [Hub.isReference, hs], hl⟩
    simp [hlock] at this
  obtain ⟨g, e, gc, gl⟩ := Hub.wckiEdge_ends_of_not_locks hs hm he waits k
  obtain ⟨kn, kr, km, kd⟩ := g.measurementEnd_keeps (m.count + k) (s.hub.clock.windowMean k (m.count + k))
  have within := s.hub.within_wckiEdge p k
  have en : g.clock.n = s.hub.clock.n := by rw [gc]; rfl
  have es : g.clock.state = s.hub.clock.state := by rw [gc]; rfl
  have er : g.clock.rate = s.hub.clock.rate := by rw [gc]; rfl
  have esrc : g.clock.source = .wordIn := by rw [gc]; exact hs
  have eh : g.clock.held = s.hub.clock.held := by rw [gc]; rfl
  have em : g.clock.measurement = some ⟨0, 0⟩ := by rw [gc]; rfl
  have erun : g.clock.lockRun = s.hub.clock.runAfter p := by rw [gc]; rfl
  refine ⟨_, exec_rateMeasurementComplete hr due p k, within, ?_⟩
  rw [e]
  refine ⟨kn.trans en, kr.trans er, km.trans em, fun r => ?_, fun hst => ?_, fun hmatch => ⟨fun hst => ?_, fun hst => ?_, fun hst => ?_⟩,
    fun hother => ⟨?_, fun hst => ?_, fun hst => ?_, fun hst => ?_⟩⟩
  · rw [kd, detectRate_eq_some_iff]
    unfold inWindow
    rw [Bool.and_eq_true, decide_eq_true_iff, decide_eq_true_iff]
    exact Iff.rfl
  · rw [← es] at hst
    rw [Hub.measurementEnd_internal rfl hst]
    exact ⟨hst, gl⟩
  · rw [kd, ← er] at hmatch
    have run := erun.trans (MediaClock.runAfter_acquiring hst p)
    rw [← es] at hst
    by_cases h64 : g.clock.lockRun = 64
    · rw [Hub.measurementEnd_acquiring_locks rfl hst hmatch h64]
      refine ⟨rfl, eh, fun _ => ⟨rfl, ?_⟩, fun n => absurd h64 n, run⟩
      simp [gl, en, esrc, er]
    · rw [Hub.measurementEnd_acquiring_waits rfl hst hmatch h64]
      exact ⟨rfl, eh, fun y => absurd y h64, fun _ => ⟨hst, gl⟩, run⟩
  · rw [kd, ← er] at hmatch
    rw [← es] at hst
    rw [Hub.measurementEnd_locked_match rfl hst hmatch]
    refine ⟨hst, withinPull_clampPull _, gl, fun mean hmean hw => ?_⟩
    subst hmean
    exact clampPull_of_withinPull hw
  · rw [kd, ← er] at hmatch
    rw [← es] at hst
    rw [Hub.measurementEnd_holdover_match rfl hst hmatch]
    refine ⟨rfl, rfl, rfl, rfl, ?_⟩
    simp [gl, en, esrc, er]
  · rw [kd, ← er] at hother
    rw [Hub.measurementEnd_held_of_other hother, eh]
  · rw [kd, ← er] at hother
    rw [← es] at hst
    rw [Hub.measurementEnd_acquiring_other rfl hst hother]
    simp [gl, en, esrc, er]
  · rw [kd, ← er] at hother
    rw [← es] at hst
    rw [Hub.measurementEnd_locked_other rfl hst hother]
    simp [gl, en, esrc, er]
  · rw [kd, ← er] at hother
    rw [← es] at hst
    rw [Hub.measurementEnd_holdover_other rfl hst hother]
    exact ⟨hst, gl⟩

/-! ### REFERENCE_TIMEOUT and ACQUIRE_TIMEOUT -/

/-- Abandoning a measurement touches it and the detected rate alone (R6). -/
theorem MediaClock.abandonMeasurement_keeps (c : MediaClock) : c.abandonMeasurement =
    { c with measurement := c.abandonMeasurement.measurement, detected := c.abandonMeasurement.detected } := by
  unfold MediaClock.abandonMeasurement
  split <;> rfl

theorem MediaClock.abandonMeasurement_wordIn {c : MediaClock} (hs : c.source = .wordIn) :
    c.abandonMeasurement.detected = none ∧ c.abandonMeasurement.measurement = none := by
  unfold MediaClock.abandonMeasurement
  rw [if_pos hs]
  exact ⟨rfl, rfl⟩

section referenceTimeout

variable {h : Hub}

theorem Hub.referenceTimeout_internal (hs : h.clock.state = .internal) : h.referenceTimeout = h := by
  unfold Hub.referenceTimeout
  rw [hs]
  exact ite_self _

theorem Hub.referenceTimeout_acquiring (hsrc : h.clock.source ≠ .internal) (hs : h.clock.state = .acquiring) :
    h.referenceTimeout = ((h.withClock h.clock.abandonMeasurement).enterHoldover).postClock .noReference := by
  unfold Hub.referenceTimeout
  rw [if_neg hsrc, hs]

theorem Hub.referenceTimeout_locked (hsrc : h.clock.source ≠ .internal) (hs : h.clock.state = .locked) :
    h.referenceTimeout = ((h.withClock h.clock.abandonMeasurement).enterHoldover).postClock .referenceLost := by
  unfold Hub.referenceTimeout
  rw [if_neg hsrc, hs]

theorem Hub.referenceTimeout_holdover (hsrc : h.clock.source ≠ .internal) (hs : h.clock.state = .holdover) :
    h.referenceTimeout = h.withClock { h.clock.abandonMeasurement with refRun := 0 } := by
  unfold Hub.referenceTimeout
  rw [if_neg hsrc, hs]
  rfl

end referenceTimeout

/-- Settles O7: without reference events each steered state falls to HOLDOVER; the acquisition timer runs out once. -/
theorem clockTimeouts : Obligations.ClockTimeouts := by
  intro s hr
  refine ⟨fun hsrc => ?_, fun ms hms => ⟨fun hs hlt => ?_, fun hle => ?_⟩⟩
  · have within : Hub.Within [.clock, .link] s.hub s.hub.referenceTimeout :=
      (Hub.Within.rfl' _ s.hub).referenceTimeout (by decide) (by decide)
    have word := MediaClock.abandonMeasurement_wordIn (c := s.hub.clock)
    refine ⟨_, State.onLive_becomes hr Hub.referenceTimeout, within, ?_⟩
    cases hs : s.hub.clock.state with
    | internal => simp [Hub.referenceTimeout_internal hs]
    | acquiring =>
      rw [Hub.referenceTimeout_acquiring hsrc hs, MediaClock.abandonMeasurement_keeps]
      simpa [MediaClock.inForce] using word
    | locked =>
      rw [Hub.referenceTimeout_locked hsrc hs, MediaClock.abandonMeasurement_keeps]
      simpa [MediaClock.inForce] using word
    | holdover =>
      rw [Hub.referenceTimeout_holdover hsrc hs, MediaClock.abandonMeasurement_keeps]
      simpa [hs] using word
  · have e := State.onLive_becomes hr Hub.acquireTimeout
    have eh : s.hub.acquireTimeout = (s.hub.withClock { s.hub.clock with timer := some 2000 }).postClock .acquireTimeout := by
      unfold Hub.acquireTimeout
      rw [hms]
      exact if_pos ⟨hs, hlt⟩
    rw [eh] at e
    refine e.trans ?_
    show s.becomes ((s.hub.withClock { s.hub.clock with timer := some 2000 }).withLink (s.hub.link.post s.hub.clock.n
      (.clockState s.hub.clock.state s.hub.clock.source s.hub.clock.rate s.hub.clock.detected .acquireTimeout))) = _
    rw [hs]
  · refine State.onLive_same (f := Hub.acquireTimeout) ?_
    unfold Hub.acquireTimeout
    rw [hms]
    exact if_neg (by omega)

/-! ### START_OF_FRAME, LINK_CORRECTION_RECORD and LINK_REFERENCE_RETURN -/

theorem exec_startOfFrame {s : State} (hr : s.hub.resetN = true) (f : BitVec 11) (p : Ratio) :
    exec (.startOfFrame f p) s = s.becomes (s.hub.startOfFrame f p) := State.onLive_becomes hr (fun h => h.startOfFrame f p)

theorem Hub.linkCountDue_iff (h : Hub) (st : ClockState) (f : BitVec 11) : h.linkCountDue st f = true ↔
    h.clock.source = .linkFrame ∧ h.clock.state = st ∧ 255 ≤ h.clock.refRun ∧ h.newFrame f = true := by
  unfold Hub.linkCountDue
  simp [and_assoc]

theorem exec_linkCorrectionRecord {s : State} (hr : s.hub.resetN = true) {f : BitVec 11} (hd : s.hub.linkCountDue .locked f = true) (p : Ratio) :
    exec (.linkCorrectionRecord f p) s = s.becomes (s.hub.startOfFrame f p) := by
  have e := State.onLive_becomes hr (fun h => if h.linkCountDue .locked f then h.startOfFrame f p else h)
  simp only [hd, if_true] at e
  exact e

theorem exec_linkReferenceReturn {s : State} (hr : s.hub.resetN = true) {f : BitVec 11} (hd : s.hub.linkCountDue .holdover f = true) (p : Ratio) :
    exec (.linkReferenceReturn f p) s = s.becomes (s.hub.startOfFrame f p) := by
  have e := State.onLive_becomes hr (fun h => if h.linkCountDue .holdover f then h.startOfFrame f p else h)
  simp only [hd, if_true] at e
  exact e

theorem Hub.startOfFrame_linkFrame {h : Hub} {f : BitVec 11} (hf : h.newFrame f = true) (hs : h.clock.source = .linkFrame) (p : Ratio) :
    h.startOfFrame f p = (h.marked f).linkEvent p (frameStep h.link.lastFrame f) := by
  rw [Hub.startOfFrame_new hf, if_pos hs]

/-- A new start-of-frame replaces the mark, whatever else it brings about (R16). -/
theorem Hub.startOfFrame_mark {h : Hub} {f : BitVec 11} (hf : h.newFrame f = true) (p : Ratio) :
    (h.startOfFrame f p).link.mark = ⟨f, h.clock.n⟩ := by
  rw [Hub.startOfFrame_new hf]
  split
  · have w : Hub.Within [.clock, .draws, .link] (h.marked f) ((h.marked f).linkEvent p (frameStep h.link.lastFrame f)) :=
      (Hub.Within.rfl' _ _).linkEvent (by decide) (by decide) (by decide) p _
    exact (w.linkState (by decide)).mark
  · rfl

/-- The two events that are the 256th of their clock state (R9, R10). -/
theorem Hub.linkEvent_record {h : Hub} (hs : h.clock.state = .locked) (hr : 255 ≤ h.clock.refRun) (p : Ratio) (step : Nat) :
    let g := h.linkEvent p step
    g.clock.state = .locked ∧ g.clock.held = clampPull h.clock.steered ∧ g.clock.refRun = 0 ∧ g.link = h.link := by
  dsimp only
  obtain ⟨x, e⟩ := h.paired_clock p step
  rw [Hub.linkEvent_locked_due hs hr]
  simp [e, hs]

theorem Hub.linkEvent_return {h : Hub} (hs : h.clock.state = .holdover) (hr : 255 ≤ h.clock.refRun) (p : Ratio) (step : Nat) :
    let g := h.linkEvent p step
    g.clock.state = .acquiring ∧ g.clock.lockRun = 0 ∧ g.clock.timer = some 0 ∧ g.clock.anchor = none ∧ g.clock.held = h.clock.held ∧
      g.link = h.link.post h.clock.n (.clockState .acquiring h.clock.source h.clock.rate h.clock.detected .sourceChanged) := by
  dsimp only
  obtain ⟨x, e⟩ := h.paired_clock p step
  rw [Hub.linkEvent_holdover_due hs hr]
  simp [e]

/-- An event counted in LOCKED or HOLDOVER (R9, R10). -/
theorem Hub.linkEvent_counted {h : Hub} (hs : h.clock.state = .locked ∨ h.clock.state = .holdover) (hr : h.clock.refRun < 255) (p : Ratio)
    (step : Nat) :
    let g := h.linkEvent p step
    g.clock.state = h.clock.state ∧ g.clock.refRun = h.clock.refRun + 1 ∧ g.clock.held = h.clock.held ∧
      g.clock.lockRun = h.clock.lockRun ∧ g.link = h.link ∧ (h.clock.state = .holdover → g.clock.inForce = h.clock.inForce) := by
  dsimp only
  obtain ⟨x, e⟩ := h.paired_clock p step
  rw [Hub.linkEvent_counts hs hr, e]
  refine ⟨rfl, rfl, rfl, rfl, by simp, fun hh => ?_⟩
  simp [MediaClock.inForce, hh]

/-- Settles O8: a new start-of-frame replaces the mark, and with LINK_FRAME it is the event of the clock state it finds. -/
theorem startsOfFrame : Obligations.StartsOfFrame := by
  refine ⟨fun s f p hr => ⟨fun hold => ?_, fun hc hl hs => ?_, fun hc hl => ?_⟩, fun s f p hr hs hrun hc hl => ⟨fun hst => ?_, fun hst => ?_⟩,
    fun s f p marked hr hs hc hl hm => ?_⟩
  · have old : s.hub.newFrame f = false := by
      rw [Bool.eq_false_iff, Ne, Hub.newFrame_iff]
      rintro ⟨hc, hl⟩
      obtain e | e := hold
      · simp [hc] at e
      · exact hl e
    exact State.onLive_same (f := fun h => h.startOfFrame f p) (Hub.startOfFrame_old old p)
  · rw [exec_startOfFrame hr, Hub.startOfFrame_new ((s.hub.newFrame_iff f).mpr ⟨hc, hl⟩), if_neg hs]
    rfl
  · exact ⟨_, exec_startOfFrame hr f p, Hub.startOfFrame_mark ((s.hub.newFrame_iff f).mpr ⟨hc, hl⟩) p, s.hub.startOfFrame_n f p,
      s.hub.within_startOfFrame f p⟩
  · have hf := (s.hub.newFrame_iff f).mpr ⟨hc, hl⟩
    have within := s.hub.within_startOfFrame f p
    have hn := s.hub.startOfFrame_n f p
    refine ⟨_, exec_linkCorrectionRecord hr ((s.hub.linkCountDue_iff _ f).mpr ⟨hs, hst, hrun, hf⟩) p, ?_⟩
    obtain ⟨gs, gh, gr, gl⟩ := Hub.linkEvent_record (h := s.hub.marked f) hst hrun p (frameStep s.hub.link.lastFrame f)
    rw [← Hub.startOfFrame_linkFrame hf hs] at gs gh gr gl
    refine ⟨gs, ?_, fun hw => ?_, gr, hn, gl, within⟩
    · rw [gh]
      exact withinPull_clampPull _
    · rw [gh]
      exact clampPull_of_withinPull hw
  · have hf := (s.hub.newFrame_iff f).mpr ⟨hc, hl⟩
    have within := s.hub.within_startOfFrame f p
    have hn := s.hub.startOfFrame_n f p
    have hmark := Hub.startOfFrame_mark hf p
    refine ⟨_, exec_linkReferenceReturn hr ((s.hub.linkCountDue_iff _ f).mpr ⟨hs, hst, hrun, hf⟩) p, ?_⟩
    obtain ⟨gs, grun, gt, ga, gh, gl⟩ := Hub.linkEvent_return (h := s.hub.marked f) hst hrun p (frameStep s.hub.link.lastFrame f)
    rw [← Hub.startOfFrame_linkFrame hf hs] at gs grun gt ga gh gl
    refine ⟨gs, grun, gt, ga, gh, hn, hmark, ?_, within⟩
    rw [gl, Hub.marked_clock, hs]
    exact Link.post_notices_eq _ _ _ _ rfl rfl
  · have hf := (s.hub.newFrame_iff f).mpr ⟨hc, hl⟩
    have eq := Hub.startOfFrame_linkFrame hf hs p
    have el : (s.hub.marked f).link = marked := hm.symm
    have anchor := Hub.linkEvent_anchor (h := s.hub.marked f) (p := p) (step := frameStep s.hub.link.lastFrame f)
    obtain ⟨krate, ksrc, kdet⟩ := (s.hub.marked f).linkEvent_keeps p (frameStep s.hub.link.lastFrame f)
    refine ⟨_, exec_startOfFrame hr f p, ?_⟩
    rw [eq]
    refine ⟨Hub.linkEvent_n _ _ _, krate, ksrc.trans hs, kdet, fun hst => ?_, fun hrun hst => ?_, fun b hb hn => ?_⟩
    · obtain ⟨gh, grun, glock, gwait⟩ :=
        Hub.linkEvent_acquiring_effect (h := s.hub.marked f) hst hs p (frameStep s.hub.link.lastFrame f)
      rw [el] at glock gwait
      refine ⟨gh, grun, glock, gwait, fun hnone => ?_⟩
      obtain ⟨ga, gk⟩ := anchor (.inl (by simp [hst]))
      obtain ⟨fa, fk⟩ := MediaClock.pairLink_first (c := s.hub.clock) hnone p (frameStep s.hub.link.lastFrame f)
      exact ⟨ga.trans fa, gk.trans fk⟩
    · have counted := Hub.linkEvent_counted (h := s.hub.marked f) hst hrun p (frameStep s.hub.link.lastFrame f)
      rw [el] at counted
      exact counted
    · obtain ⟨ga, gk⟩ := anchor hn
      obtain ⟨la, lk⟩ := MediaClock.pairLink_later (c := s.hub.clock) hb p (frameStep s.hub.link.lastFrame f)
      exact ⟨ga.trans la, gk.trans lk⟩

end Sys2Proof.Machine
end

section
/-! ## SET_CLOCK and the reset state -/

namespace Sys2Proof.Machine

/-! ### What an accepted rate change makes of each block (R14, R15) -/

@[simp] theorem Source.ofCode_oneByte (src : Source) : Source.ofCode (oneByte src.code).toNat = some src := by cases src <;> rfl
@[simp] theorem Rate.ofCode_oneByte (rate : Rate) : Rate.ofCode (oneByte rate.code).toNat = some rate := by cases rate <;> rfl

/-- The state that a selected source is entered in (R12, R14). -/
def Source.entryState (src : Source) : ClockState := if src = .internal then .internal else .acquiring

/-- The detected rate that a selected source starts with (R5, R6). -/
def Source.entryDetected (src : Source) (rate : Rate) : Option Rate := if src = .wordIn then none else some rate

/-- Entering a source's state changes the Media Clock and takes a draw. -/
theorem Hub.within_enterSource (h : Hub) : Hub.Within [.clock, .draws] h h.enterSource :=
  (Hub.Within.rfl' _ h).enterSource (by decide) (by decide)

section changeRate

variable (h : Hub) (src : Source) (rate : Rate)

/-- The change goes from one crystal's family to the other's (R3). -/
def Hub.crosses : Bool := decide (rate.family ≠ h.clock.rate.family)

theorem Hub.crosses_eq_true_iff : h.crosses rate = true ↔ rate.family ≠ h.clock.rate.family := decide_eq_true_iff

/-- The two notices of a rate change, in their order. -/
def Hub.rateNotices (l : Link) : Link :=
  (l.post 0 (.cueFlushed h.cues.length .rateChange)).post 0
    (.clockState src.entryState src rate (src.entryDetected rate) .sourceChanged)

/-- The Media Clock after an accepted rate change. -/
theorem Hub.changeRate_clock : ∃ x, (h.changeRate src rate).clock = { h.clock with
    n := 0, source := src, rate := rate, state := src.entryState, detected := src.entryDetected rate
    held := if h.crosses rate then nominal else h.clock.held, switching := h.clock.switching || h.crosses rate
    lockRun := 0, matched := false, measurement := none, timer := if src = .internal then none else some 0
    refRun := 0, anchor := none, sinceAnchor := 0, steered := x } := by
  cases src <;> exact ⟨_, rfl⟩

theorem Hub.changeRate_outputs : (h.changeRate src rate).outputs = (h.outputsRateChange (h.crosses rate)).outputs :=
  (Hub.within_enterSource _).outputs (by decide)
theorem Hub.changeRate_tallies : (h.changeRate src rate).tallies = h.tallies.map Tally.halt :=
  (Hub.within_enterSource _).tallies (by decide)
theorem Hub.changeRate_engine : (h.changeRate src rate).engine = h.engine :=
  (Hub.within_enterSource _).engine (by decide)
theorem Hub.changeRate_cues : (h.changeRate src rate).cues = [] :=
  (Hub.within_enterSource _).cues (by decide)
theorem Hub.changeRate_ports : (h.changeRate src rate).ports = h.ports :=
  (Hub.within_enterSource _).ports (by decide)
theorem Hub.changeRate_bus : (h.changeRate src rate).bus = h.bus :=
  (Hub.within_enterSource _).bus (by decide)
theorem Hub.changeRate_surface : (h.changeRate src rate).surface = h.surface.restamped :=
  (Hub.within_enterSource _).surface (by decide)
theorem Hub.changeRate_meters : (h.changeRate src rate).meters = h.meters.map (fun m => { m with peak := 0 }) :=
  (Hub.within_enterSource _).meters (by decide)
theorem Hub.changeRate_link : (h.changeRate src rate).link = h.rateNotices src rate h.link := by cases src <;> rfl

/-- The link takes no part in a rate change but for the two notices. -/
theorem Hub.changeRate_withLink (l : Link) :
    (h.withLink l).changeRate src rate = (h.changeRate src rate).withLink (h.rateNotices src rate l) := by cases src <;> rfl

theorem Hub.changeSource_withLink (l : Link) : (h.withLink l).changeSource src = (h.changeSource src).withLink
    (l.post h.clock.n (.clockState src.entryState src h.clock.rate (src.entryDetected h.clock.rate) .sourceChanged)) := by
  cases src <;> rfl

theorem Hub.changeSource_link : (h.changeSource src).link =
    h.link.post h.clock.n (.clockState src.entryState src h.clock.rate (src.entryDetected h.clock.rate) .sourceChanged) := by
  cases src <;> rfl

/-- The Media Clock after a change of source at the same rate (R12). -/
theorem Hub.changeSource_clock : ∃ x, (h.changeSource src).clock = { h.clock with
    source := src, state := src.entryState, detected := src.entryDetected h.clock.rate
    lockRun := 0, matched := false, measurement := none, timer := if src = .internal then none else some 0
    refRun := 0, anchor := none, sinceAnchor := 0, steered := x } := by
  cases src <;> exact ⟨_, rfl⟩

end changeRate

/-- A period in progress marks the change, and one across families stays one (R24). -/
theorem ClockOut.rateChange_spec (o : ClockOut) (across : Bool) :
    o.rateChange across = { o with change := (o.rateChange across).change } ∧
      (o.period = none → (o.rateChange across).change = o.change) ∧
      (o.period ≠ none → (o.rateChange across).change ≠ .none ∧
        ((o.rateChange across).change = .across ↔ o.change = .across ∨ across = true)) := by
  unfold ClockOut.rateChange
  split
  · rename_i hp
    refine ⟨rfl, fun n => by simp [n] at hp, fun _ => ?_⟩
    by_cases hc : o.change = .across <;> cases across <;> simp [hc]
  · rename_i hp
    exact ⟨rfl, fun _ => rfl, fun n => absurd (Option.isSome_iff_ne_none.mpr n) hp⟩

theorem Hub.outputsRateChange_out {h : Hub} {i : Nat} {o : ClockOut} (ho : h.out i = some o) (across : Bool) :
    (h.outputsRateChange across).out i = some (o.rateChange across) := by
  show (h.outputs.outs.map _)[i]? = _
  rw [List.getElem?_map, show h.outputs.outs[i]? = some o from ho]
  rfl

theorem Hub.outputsRateChange_flags (h : Hub) (across : Bool) :
    ((h.outputsRateChange across).outputs.zeroNext = true ↔ h.outputs.zeroNext = true ∨ across = true) ∧
      ((h.outputsRateChange across).outputs.switchPending = true ↔ h.outputs.switchPending = true ∨ across = true) ∧
      (h.outputsRateChange across).outputs.outs.length = h.outputs.outs.length :=
  ⟨Bool.or_eq_true _ _ ▸ Iff.rfl, Bool.or_eq_true _ _ ▸ Iff.rfl, List.length_map _⟩

/-- A report whose last character was received is stamped 0; any other exchange stays as it was (R155). -/
theorem Surface.restamped_exchange (f : Surface) : (f.exchange = none → f.restamped.exchange = none) ∧
    ∀ x, f.exchange = some x → (x.stamp = none → f.restamped.exchange = some x) ∧
      ∀ t, x.stamp = some t → f.restamped.exchange = some { x with stamp := some 0 } := by
  refine ⟨fun hx => by simp [Surface.restamped, hx], fun x hx => ⟨fun hn => ?_, fun t ht => by simp [Surface.restamped, hx, ht]⟩⟩
  cases x
  cases hn
  simp [Surface.restamped, hx]

/-! ### The row -/

/-- SET_CLOCK with a rate that nothing blocks. -/
theorem exec_setClock_changeRate {s : State} (hr : s.hub.Ready) (tag : Tag) (src : Source) {rate : Rate} (hne : rate ≠ s.hub.clock.rate)
    (hf : s.hub.rateFree) : exec (.setClock tag [oneByte src.code, oneByte rate.code]) s =
      s.answered (s.hub.changeRate src rate) 0x01 tag .ok [] := by
  refine State.onHub_answered (f := setClock) hr .ok [] ?_ ?_ ?_
  · have hb : (s.hub.withLink s.hub.link.takeEntry).rateBlocked = false := s.hub.rateBlocked_eq_false_iff.mpr hf
    have e : (s.hub.withLink s.hub.link.takeEntry).changeRate src rate =
        (s.hub.changeRate src rate).withLink (s.hub.changeRate src rate).link.takeEntry := by
      rw [Hub.changeRate_withLink, Hub.changeRate_link]
      unfold Hub.rateNotices
      rw [Link.post_takeEntry, Link.post_takeEntry]
    simp [setClock, Hub.accept, hne, hb, e]
  · rw [Hub.changeRate_link]
    simp [Hub.rateNotices]
  · rw [Hub.changeRate_link]
    simp [Hub.rateNotices]

theorem exec_setClock_busy {s : State} (hr : s.hub.Ready) (tag : Tag) (src : Source) {rate : Rate} (hne : rate ≠ s.hub.clock.rate)
    (hf : ¬ s.hub.rateFree) : exec (.setClock tag [oneByte src.code, oneByte rate.code]) s = s.answered s.hub 0x01 tag .busy [] := by
  refine State.onHub_answered (f := setClock) hr .busy [] ?_ rfl rfl
  have hb : (s.hub.withLink s.hub.link.takeEntry).rateBlocked = true := by
    rw [← Bool.not_eq_false]
    exact fun hb => hf (s.hub.rateBlocked_eq_false_iff.mp hb)
  simp [setClock, Hub.refuse, hne, hb]

theorem exec_setClock_same {s : State} (hr : s.hub.Ready) (tag : Tag) :
    exec (.setClock tag [oneByte s.hub.clock.source.code, oneByte s.hub.clock.rate.code]) s = s.answered s.hub 0x01 tag .ok [] := by
  refine State.onHub_answered (f := setClock) hr .ok [] ?_ rfl rfl
  simp [setClock, Hub.accept]

theorem exec_setClock_changeSource {s : State} (hr : s.hub.Ready) (tag : Tag) {src : Source} (hne : src ≠ s.hub.clock.source) :
    exec (.setClock tag [oneByte src.code, oneByte s.hub.clock.rate.code]) s = s.answered (s.hub.changeSource src) 0x01 tag .ok [] := by
  refine State.onHub_answered (f := setClock) hr .ok [] ?_ ?_ ?_
  · have e : (s.hub.withLink s.hub.link.takeEntry).changeSource src =
        (s.hub.changeSource src).withLink (s.hub.changeSource src).link.takeEntry := by
      rw [Hub.changeSource_withLink, Hub.changeSource_link, Link.post_takeEntry]
    simp [setClock, Hub.accept, hne, e]
  · rw [Hub.changeSource_link, Link.post_serial]
  · rw [Hub.changeSource_link, Link.post_held]

/-- The reply of a command leaves every block but the link alone. -/
theorem Hub.replied_eq (h : Hub) (r : Reply) : h.replied r = h.withLink (h.link.replied r) := rfl

end Sys2Proof.Machine

namespace Sys2Proof.Proofs

open Sys2Proof.Machine

/-- Settles O4: the row is `changeRate`, a refusal, `changeSource` or nothing, and each is taken block by block. Its namespace is not the model's, whose
`setClock` is the handler. -/
theorem setClock : Obligations.SetClock := by
  refine ⟨fun s tag src rate hr hne hf => ?_, fun s tag src rate hr => ⟨fun hne hf => ?_, fun he hs => ?_, fun he hs => ?_⟩⟩
  · obtain ⟨x, ec⟩ := s.hub.changeRate_clock src rate
    have crosses := s.hub.crosses_eq_true_iff rate
    have within : Hub.Within [.clock, .outputs, .tallies, .cues, .surface, .meters, .draws, .link, .linkState] s.hub
        ((s.hub.changeRate src rate).replied ⟨0x01, tag, .ok, []⟩) :=
      ((Hub.Within.rfl' _ s.hub).changeRate (by decide) (by decide) (by decide) (by decide) (by decide) (by decide) (by decide) (by decide)
        src rate).withLink (by decide) (by decide) _
    refine ⟨_, exec_setClock_changeRate hr tag src hne hf, ?_⟩
    rw [Hub.replied_eq] at within ⊢
    simp only [Hub.withLink_clock, Hub.withLink_cues, Hub.withLink_tallies, Hub.withLink_meters, Hub.withLink_outputs, Hub.withLink_surface,
      Hub.withLink_engine, Hub.withLink_ports, Hub.withLink_bus, Hub.withLink_link, Hub.out, Hub.changeRate_cues, Hub.changeRate_tallies,
      Hub.changeRate_meters, Hub.changeRate_outputs, Hub.changeRate_surface, Hub.changeRate_engine, Hub.changeRate_ports, Hub.changeRate_bus,
      Hub.changeRate_link, ec, true_and] at within ⊢
    obtain ⟨zero, pending, count⟩ := s.hub.outputsRateChange_flags (s.hub.crosses rate)
    obtain ⟨none, some⟩ := s.hub.surface.restamped_exchange
    rw [crosses] at zero pending
    refine ⟨rfl, rfl, ?_, ?_, rfl, zero, pending, count, fun i o ho => ?_, rfl, none, some, rfl, within⟩
    · by_cases hk : rate.family = s.hub.clock.rate.family
      · rw [if_neg (fun c => crosses.mp c hk), if_pos hk]
      · rw [if_pos (crosses.mpr hk), if_neg hk]
    · rw [Bool.or_eq_true, crosses]
    · obtain ⟨same, idle, busy⟩ := o.rateChange_spec (s.hub.crosses rate)
      rw [crosses] at busy
      exact ⟨o.rateChange (s.hub.crosses rate), Hub.outputsRateChange_out ho _, same, idle, busy⟩
  · exact exec_setClock_busy hr tag src hne hf
  · subst he hs
    exact exec_setClock_same hr tag
  · subst he
    obtain ⟨x, ec⟩ := s.hub.changeSource_clock src
    have within : Hub.Within [.clock, .draws, .link, .linkState] s.hub ((s.hub.changeSource src).replied ⟨0x01, tag, .ok, []⟩) :=
      ((Hub.Within.rfl' _ s.hub).changeSource (by decide) (by decide) (by decide) src).withLink (by decide) (by decide) _
    refine ⟨_, exec_setClock_changeSource hr tag hs, ?_⟩
    rw [Hub.replied_eq] at within ⊢
    simp only [Hub.withLink_clock, Hub.withLink_link, Hub.changeSource_link, ec, true_and] at within ⊢
    exact ⟨rfl, rfl, within⟩

end Sys2Proof.Proofs

namespace Sys2Proof.Machine

/-! ### After power-on reset -/

theorem Hub.reset_stream (i : Nat) : Hub.reset.stream i = none := by
  show ((List.replicate Config.nStreams none)[i]?).join = none
  rw [List.getElem?_replicate]
  split <;> rfl

theorem Hub.reset_pages_ne (p i : Nat) : Hub.reset.engine.pages[p]? ≠ some (some i) := by
  show (List.replicate Config.poolPages none)[p]? ≠ _
  rw [List.getElem?_replicate]
  split <;> simp

theorem Node.reset_fits : Node.reset.fits := by
  unfold Node.fits
  decide

theorem Meter.reset_fits : Meter.reset.fits := by
  unfold Meter.fits
  decide

/-- Settles O60: every block is its reset value, written out or repeated; nothing is defined, queued or in progress. -/
theorem resetState : Obligations.ResetState := by
  have noStream : ∀ i st, State.reset.hub.stream i ≠ some st := fun i st h => nomatch (Hub.reset_stream i).symm.trans h
  refine ⟨rfl, rfl, rfl, rfl, rfl, rfl, rfl, ?_, ?_, Hub.reset_stream, rfl, rfl, rfl, ?_, rfl, rfl, rfl, ?_, rfl, ?_, rfl, rfl, rfl, rfl, rfl,
    rfl, rfl, rfl, ⟨withinPull_nominal, withinPull_nominal⟩, ?_, ?_, ?_, ?_, ?_, ?_, ?_, fun i st hs => absurd hs (noStream i st), ?_, ?_, ?_, rfl,
    fun i st hs => absurd hs (noStream i st), ?_⟩
  · intro o ho
    obtain rfl := List.eq_of_mem_replicate ho
    exact ⟨rfl, rfl, rfl, rfl, rfl⟩
  · intro t ht
    obtain rfl := List.eq_of_mem_replicate ht
    exact ⟨rfl, rfl, rfl, rfl⟩
  · intro p hp
    obtain rfl := List.eq_of_mem_replicate hp
    exact ⟨rfl, rfl, rfl, rfl, rfl, rfl⟩
  · intro n hn
    obtain rfl := List.eq_of_mem_replicate hn
    rfl
  · intro m hm
    obtain rfl := List.eq_of_mem_replicate hm
    exact ⟨rfl, rfl, rfl, rfl, rfl, rfl, rfl, rfl, rfl, rfl, rfl, rfl, rfl⟩
  · exact ⟨Nat.zero_le _, List.nodup_nil⟩
  · exact ⟨Nat.zero_le _, List.nodup_nil, fun _ n => nomatch n⟩
  · exact ⟨Nat.zero_le _, List.Pairwise.nil, List.nodup_nil, fun _ n => nomatch n⟩
  · exact ⟨Nat.zero_le _, fun _ _ => rfl, fun _ => rfl, fun _ n => nomatch n⟩
  · refine ⟨fun n hn => ?_, fun _ n => nomatch n⟩
    obtain rfl := List.eq_of_mem_replicate hn
    exact Node.reset_fits
  · intro m hm
    obtain rfl := List.eq_of_mem_replicate hm
    exact Meter.reset_fits
  · exact ⟨List.length_replicate, List.length_replicate, List.length_replicate, List.length_replicate, List.length_replicate,
      List.length_replicate, List.length_replicate, List.length_replicate⟩
  · exact ⟨fun i st hs => absurd hs (noStream i st), fun p i => ⟨fun hp => absurd hp (Hub.reset_pages_ne p i), fun ⟨st, hs, _⟩ => absurd hs (noStream i st)⟩⟩
  · exact List.nodup_nil
  · intro st hs
    cases List.eq_of_mem_replicate hs
  · exact ⟨fun i st hs => absurd hs (noStream i st), fun _ n => nomatch n⟩

end Sys2Proof.Machine
end

section

/-! ## The reporting commands: what the records are -/

namespace Sys2Proof.Machine

/-! ### The page map as runs (R48) -/

/-- The runs of a page map that is not empty begin with its first page. -/
theorem pageRuns_cons (o : Option Nat) (rest : List (Option Nat)) (i : Nat) :
    (∃ r more, pageRuns rest (i + 1) = r :: more ∧ r.owner = o ∧
      pageRuns (o :: rest) i = ⟨i, r.length + 1, o⟩ :: more) ∨
    (∃ r more, pageRuns rest (i + 1) = r :: more ∧ r.owner ≠ o ∧
      pageRuns (o :: rest) i = ⟨i, 1, o⟩ :: r :: more) ∨
    (pageRuns rest (i + 1) = [] ∧ pageRuns (o :: rest) i = [⟨i, 1, o⟩]) := by
  cases e : pageRuns rest (i + 1) with
  | nil => exact .inr (.inr ⟨rfl, by simp [pageRuns, e]⟩)
  | cons r more =>
    by_cases ho : r.owner = o
    · exact .inl ⟨r, more, rfl, ho, by simp [pageRuns, e, ho]⟩
    · exact .inr (.inl ⟨r, more, rfl, ho, by simp [pageRuns, e, ho]⟩)

theorem pageRuns_head_first {pages : List (Option Nat)} {i : Nat} {r : PageRun} (h : (pageRuns pages i).head? = some r) :
    r.first = i := by
  cases pages with
  | nil => cases h
  | cons o rest =>
    obtain ⟨_, _, _, _, e⟩ | ⟨_, _, _, _, e⟩ | ⟨_, e⟩ := pageRuns_cons o rest i <;>
      (rw [e] at h; cases h; rfl)

/-- Written out page by page, the runs are the page map. -/
theorem pageRuns_flatten (pages : List (Option Nat)) (i : Nat) :
    (pageRuns pages i).flatMap (fun r => List.replicate r.length r.owner) = pages := by
  induction pages generalizing i with
  | nil => rfl
  | cons o rest ih =>
    have tail := ih (i + 1)
    obtain ⟨r, more, e, ho, er⟩ | ⟨r, more, e, -, er⟩ | ⟨e, er⟩ := pageRuns_cons o rest i
    · rw [e] at tail
      rw [er, ← tail]
      simp [ho, List.replicate_succ]
    · rw [e] at tail
      rw [er, ← tail]
      simp
    · rw [e] at tail
      rw [er, ← tail]
      simp

/-- A run is followed by the next page's run, which has another owner. -/
def PageRun.Precedes (r r' : PageRun) : Prop := r'.first = r.first + r.length ∧ r'.owner ≠ r.owner

/-- Each run of a list precedes the next (R48). -/
def PageRun.Chained (runs : List PageRun) : Prop :=
  ∀ (k : Nat) (r r' : PageRun), runs[k]? = some r → runs[k + 1]? = some r' → r.Precedes r'

theorem PageRun.chained_nil : PageRun.Chained [] := fun _ _ _ h => nomatch h

theorem PageRun.chained_singleton (r : PageRun) : PageRun.Chained [r] := fun _ _ _ _ h => nomatch h

theorem PageRun.chained_cons {r : PageRun} {more : List PageRun} :
    PageRun.Chained (r :: more) ↔ (∀ r', more[0]? = some r' → r.Precedes r') ∧ PageRun.Chained more := by
  refine ⟨fun h => ⟨fun r' => h 0 r r' rfl, fun k => h (k + 1)⟩, fun ⟨first, later⟩ k => ?_⟩
  cases k with
  | zero =>
    intro a r' ha
    cases ha
    exact first r'
  | succ k => exact later k

theorem pageRuns_chained (pages : List (Option Nat)) (i : Nat) : PageRun.Chained (pageRuns pages i) := by
  induction pages generalizing i with
  | nil => exact PageRun.chained_nil
  | cons o rest ih =>
    have tail := ih (i + 1)
    obtain ⟨r, more, e, ho, er⟩ | ⟨r, more, e, ho, er⟩ | ⟨-, er⟩ := pageRuns_cons o rest i
    · have first : r.first = i + 1 := pageRuns_head_first (by rw [e]; rfl)
      rw [e, PageRun.chained_cons] at tail
      obtain ⟨next, later⟩ := tail
      rw [er, PageRun.chained_cons]
      refine ⟨fun r' h => ?_, later⟩
      obtain ⟨hf, hn⟩ := next r' h
      refine ⟨?_, fun same => hn (same.trans ho.symm)⟩
      show r'.first = i + (r.length + 1)
      omega
    · have first : r.first = i + 1 := pageRuns_head_first (by rw [e]; rfl)
      rw [e] at tail
      rw [er, PageRun.chained_cons]
      refine ⟨fun r' h => ?_, tail⟩
      cases h
      exact ⟨first, ho⟩
    · rw [er]
      exact PageRun.chained_singleton _

/-- The free pages, counted run by run, are those counted page by page. -/
theorem freeRuns_length (runs : List PageRun) :
    ((runs.filter (fun r => r.owner.isNone)).map PageRun.length).sum =
      ((runs.flatMap (fun r => List.replicate r.length r.owner)).filter (fun o => o.isNone)).length := by
  induction runs with
  | nil => rfl
  | cons r more ih =>
    cases ho : r.owner <;> simp [ho, ih, List.filter_append]

/-- The greatest of a list of lengths bounds each and is one of them, or 0. -/
theorem foldl_max_spec (l : List Nat) (m : Nat) :
    (∀ x ∈ l, x ≤ l.foldl max m) ∧ m ≤ l.foldl max m ∧ (l.foldl max m = m ∨ l.foldl max m ∈ l) := by
  induction l generalizing m with
  | nil => simp
  | cons a l ih =>
    obtain ⟨bound, start, attained⟩ := ih (max m a)
    simp only [List.foldl_cons, List.mem_cons, forall_eq_or_imp]
    refine ⟨⟨by omega, bound⟩, by omega, ?_⟩
    obtain h | h := attained
    · rw [h]
      omega
    · exact .inr (.inr h)

/-! ### The occupied entries of the binding table (R163) -/

theorem mem_occupied {l : List (Option Binding)} {lo i : Nat} {b : Binding} :
    (i, b) ∈ occupied l lo ↔ ∃ k, i = lo + k ∧ l[k]? = some (some b) := by
  induction l generalizing lo with
  | nil => simp [occupied]
  | cons o rest ih =>
    have later : (∃ k, i = lo + 1 + k ∧ rest[k]? = some (some b)) ↔
        ∃ k, i = lo + (k + 1) ∧ (o :: rest)[k + 1]? = some (some b) := by
      simp [Nat.add_assoc, Nat.add_comm 1]
    rw [← Nat.or_exists_add_one (p := fun k => i = lo + k ∧ (o :: rest)[k]? = some (some b)), ← later, ← ih]
    cases o with
    | none => simp [occupied]
    | some c => simp [occupied, eq_comm]

theorem occupied_ascending (l : List (Option Binding)) (lo : Nat) :
    (occupied l lo).Pairwise (fun a b => a.1 < b.1) := by
  induction l generalizing lo with
  | nil => exact .nil
  | cons o rest ih =>
    cases o with
    | none => exact ih (lo + 1)
    | some c =>
      refine .cons (fun e he => ?_) (ih (lo + 1))
      obtain ⟨k, hk, -⟩ := mem_occupied.1 (show (e.1, e.2) ∈ _ from he)
      simp only
      omega

/-! ### The meters a command names (R173) -/

theorem meterNumbers_of_named {read : List (Nat × Meter)} (h : ∀ r ∈ read, r.1 < 32) (count : Byte) :
    meterNumbers (count :: read.map (fun r => oneByte r.1)) 1 = read.map Prod.fst := by
  simp only [meterNumbers, List.drop_succ_cons, List.drop_zero, List.map_map]
  refine List.map_congr_left fun r hr => ?_
  exact toNat_oneByte (by have := h r hr; omega)

theorem namesFit_of_named {read : List (Nat × Meter)} (h1 : 1 ≤ read.length) (h32 : read.length ≤ 32)
    (h : ∀ r ∈ read, r.1 < 32) : namesFit (read.map Prod.fst) = true := by
  simp only [namesFit, List.length_map, Bool.and_eq_true, decide_eq_true_eq, List.all_eq_true, List.mem_map]
  refine ⟨⟨h1, h32⟩, ?_⟩
  rintro i ⟨r, hr, rfl⟩
  exact h r hr

/-- READ_METERS of meters that there are gives their records in the order named. -/
theorem readMeters_named {h : Hub} {ctx : CommandCtx} {read : List (Nat × Meter)} (h1 : 1 ≤ read.length) (h32 : read.length ≤ 32)
    (hm : ∀ r ∈ read, r.1 < 32 ∧ h.meter r.1 = some r.2) :
    readMeters h ctx (oneByte read.length :: read.map (fun r => oneByte r.1)) =
      h.accept (oneByte read.length :: read.flatMap (fun r => r.2.record r.1)) := by
  have shape : countedShape (oneByte read.length :: read.map (fun r => oneByte r.1)) 1 0 1 = true := by
    simp [countedShape, toNat_oneByte (show read.length < 256 by omega), Nat.add_comm]
  have records : (read.map Prod.fst).flatMap (fun i => ((h.meter i).map (fun m => m.record i)).getD []) =
      read.flatMap (fun r => r.2.record r.1) := by
    rw [List.flatMap_map]
    refine congrArg List.flatten (List.map_congr_left fun r hr => ?_)
    rw [(hm r hr).2]
    rfl
  have below := fun r hr => (hm r hr).1
  simp [readMeters, shape, meterNumbers_of_named below, namesFit_of_named h1 h32 below, records]

/-! ### A command that reports -/

/-- A handler that answers and hands the hub back as it is: the outcome is the state with the reply. -/
theorem State.onHub_reports {s : State} {code : Byte} {f : Handler} {tag : Tag} {body : List Byte} (hr : s.hub.Ready)
    {st : Status} {fields : List Byte}
    (e : f (s.hub.withLink s.hub.link.takeEntry) ⟨tag, s.hub.link.serial⟩ body =
      (s.hub.withLink s.hub.link.takeEntry, .reply st fields)) :
    s.onHub (fun h => h.command code f tag body) = s.answered s.hub code tag st fields :=
  State.onHub_answered hr st fields e rfl rfl

theorem getStream_noSuch {h : Hub} {ctx : CommandCtx} {i : Nat} (hi : i < 16) (hs : h.stream i = none) :
    getStream h ctx [oneByte i] = h.refuse .noSuch := by
  have number : (oneByte i).toNat = i := toNat_oneByte (by omega)
  simp [getStream, withStream, number, hs, show ¬ Config.nStreams ≤ i from Nat.not_le.2 hi]

theorem getStream_defined {h : Hub} {ctx : CommandCtx} {i : Nat} {st : Stream} (hi : i < 16) (hs : h.stream i = some st) :
    getStream h ctx [oneByte i] = h.accept (st.bytes i h.clock.n) := by
  have number : (oneByte i).toNat = i := toNat_oneByte (by omega)
  simp [getStream, withStream, number, hs, show ¬ Config.nStreams ≤ i from Nat.not_le.2 hi]

theorem getPort_port {h : Hub} {ctx : CommandCtx} {i : Nat} {pt : Port} (hi : i < 6) (hp : h.port i = some pt) :
    getPort h ctx [oneByte i] = h.accept pt.bytes := by
  have number : (oneByte i).toNat = i := toNat_oneByte (by omega)
  simp [getPort, withPort, number, hp]

theorem getNode_node {h : Hub} {ctx : CommandCtx} {a : Nat} {n : Node} (ha : a ≤ 16) (hn : h.node a = some n) :
    getNode h ctx [oneByte a] = h.accept n.bytes := by
  have number : (oneByte a).toNat = a := toNat_oneByte (by omega)
  simp [getNode, number, hn]

/-- The free pages that GET_POOL reports (R48). -/
def freePageCount (pages : List (Option Nat)) : Nat :=
  (((pageRuns pages 0).filter (fun r => r.owner.isNone)).map PageRun.length).foldl (· + ·) 0

/-- The longest free run that GET_POOL reports (R48). -/
def longestFreeRun (pages : List (Option Nat)) : Nat :=
  (((pageRuns pages 0).filter (fun r => r.owner.isNone)).map PageRun.length).foldl max 0

theorem freePageCount_eq (pages : List (Option Nat)) :
    freePageCount pages = (pages.filter (fun o => o.isNone)).length := by
  rw [freePageCount, ← List.sum_eq_foldl, freeRuns_length, pageRuns_flatten]

theorem length_le_longestFreeRun {pages : List (Option Nat)} {r : PageRun} (hr : r ∈ pageRuns pages 0) (ho : r.owner = none) :
    r.length ≤ longestFreeRun pages :=
  (foldl_max_spec _ 0).1 _ (List.mem_map_of_mem (List.mem_filter.2 ⟨hr, by simp [ho]⟩))

theorem longestFreeRun_attained (pages : List (Option Nat)) :
    longestFreeRun pages = 0 ∨ ∃ r ∈ pageRuns pages 0, r.owner = none ∧ r.length = longestFreeRun pages := by
  refine (foldl_max_spec _ 0).2.2.imp id fun h => ?_
  obtain ⟨r, hr, e⟩ := List.mem_map.1 h
  obtain ⟨hr, ho⟩ := List.mem_filter.1 hr
  exact ⟨r, hr, Option.isNone_iff_eq_none.1 ho, e⟩

/-- Settles O50: each handler hands the hub back with its record, so the state changes by the reply alone. -/
theorem reports : Obligations.Reports := by
  intro s tag hr
  exact ⟨State.onHub_reports (f := getClock) hr rfl,
    State.onHub_reports (f := getOutputs) hr rfl,
    fun _ hi hs => State.onHub_reports hr (getStream_noSuch hi hs),
    fun _ _ hi hs => State.onHub_reports hr (getStream_defined hi hs),
    ⟨freePageCount s.hub.engine.pages, longestFreeRun s.hub.engine.pages, pageRuns s.hub.engine.pages 0,
      State.onHub_reports (f := getPool) hr rfl, freePageCount_eq _, pageRuns_flatten _ 0, fun _ => pageRuns_head_first,
      pageRuns_chained _ 0, fun _ => length_le_longestFreeRun, longestFreeRun_attained _⟩,
    State.onHub_reports (f := listCues) hr rfl,
    fun _ _ hi hp => State.onHub_reports hr (getPort_port hi hp),
    State.onHub_reports (f := getControlBus) hr rfl,
    fun _ _ _ ha hn => State.onHub_reports hr (getNode_node ha hn),
    ⟨occupied s.hub.surface.bindings 0, State.onHub_reports (f := listBindings) hr rfl, occupied_ascending _ 0,
      fun _ _ => mem_occupied.trans (by simp)⟩,
    fun _ h1 h32 hm => State.onHub_reports hr (readMeters_named h1 h32 hm),
    State.onHub_reports (f := describe) hr rfl⟩

end Sys2Proof.Machine

end

section
/-! ## Clock outputs: the settings, the periods and the pin -/

namespace Sys2Proof.Machine

/-! ### Choices: boundaries and whole periods (R19, R20) -/

@[simp] theorem Choice.ofCode_oneByte (c : Choice) : Choice.ofCode (oneByte c.code).toNat = some c := by cases c <;> rfl
@[simp] theorem flagOf_flagByte (b : Bool) : flagOf (flagByte b).toNat = some b := by cases b <;> rfl

theorem Choice.divisor_pos_iff (c : Choice) : 0 < c.divisor ↔ c ≠ .off ∧ c ≠ .word := by cases c <;> simp [divisor]

/-- Between frame boundaries a choice has its period boundaries from the divider counter alone. -/
theorem Choice.atBoundary_inFrame (c : Choice) (d : Nat) : c.atBoundary d false = true ↔ 0 < c.divisor ∧ d % c.divisor = 0 := by
  cases c with
  | off => simp [atBoundary, divisor]
  | word => simp [atBoundary, divisor]
  | m | m2 | m4 | m8 | m16 => exact decide_eq_true_iff.trans (iff_and_self.2 fun _ => Nat.succ_pos _)

theorem Choice.atBoundary_ofFrame {c : Choice} (hc : c ≠ .off) (d : Nat) :
    c.atBoundary d true = true ↔ c = .word ∨ d % c.divisor = 0 := by
  cases c with
  | off => exact absurd rfl hc
  | word => simp [atBoundary]
  | m | m2 | m4 | m8 | m16 => simp [atBoundary]

/-- A whole period of a choice, in cycles of M: for WORD the frame that lasted `sinceFrame` cycles, where one did (R20). -/
def Choice.whole (c : Choice) (rate : Rate) (sinceFrame : Option Nat) : Nat :=
  match c, sinceFrame with
  | .word, some f => f
  | c, _ => c.cycles rate

theorem Choice.whole_of_divisor {c : Choice} (hc : 0 < c.divisor) (rate : Rate) (since : Option Nat) : c.whole rate since = c.divisor := by
  cases c with
  | off | word => cases hc
  | m | m2 | m4 | m8 | m16 => rfl

theorem Choice.whole_pos {c : Choice} (hc : c ≠ .off) (rate : Rate) {since : Option Nat} (hs : ∀ f, since = some f → 0 < f) :
    0 < c.whole rate since := by
  cases c with
  | off => exact absurd rfl hc
  | word =>
    cases since with
    | none => cases rate <;> decide
    | some f => exact hs f rfl
  | m | m2 | m4 | m8 | m16 => exact Nat.succ_pos _

namespace ClockOut

variable {o : ClockOut}

theorem waited_iff (rate : Rate) (since : Option Nat) :
    o.waited rate since = true ↔ o.noWait = true ∨ o.choice.whole rate since ≤ o.heldCycles := by
  unfold waited Choice.whole
  cases o.choice <;> cases since <;> simp

/-! ### The pin (R19) -/

theorem pin_idle (hp : o.period = none) (frame k : Nat) : o.pin frame k = o.inv := by simp [pin, hp]

theorem pin_divided {c : OutSetting} (hp : o.period = some c) (hc : 0 < c.choice.divisor) (he : o.elapsed = 0) (frame k : Nat) :
    o.pin frame k = if k % (2 * c.choice.divisor) < c.choice.divisor then !c.inv else c.inv := by
  obtain ⟨choice, inv⟩ := c
  cases choice with
  | off | word => cases hc
  | m | m2 | m4 | m8 | m16 => simp [pin, hp, he, OutSetting.level]

theorem pin_word {v : Bool} (hp : o.period = some ⟨.word, v⟩) (he : o.elapsed = 0) (frame k : Nat) :
    o.pin frame k = if k < frame then !v else v := by
  simp [pin, hp, he, OutSetting.level]

/-! ### SET_CLOCK_OUTPUT on one output (R23) -/

/-- Choice and inversion applied at once: a changed inversion starts the wait anew; a changed choice lets it apply, but in PAUSED. -/
theorem applyNow_eq (c : Choice) (inv : Bool) : o.applyNow c inv = { o with
    choice := c, inv := inv, heldCycles := if inv = o.inv then o.heldCycles else 0
    noWait := decide (inv = o.inv) && o.noWait && (decide (c = o.choice) || decide (o.state = .paused)) } := by
  unfold applyNow moveLevel
  split
  · rename_i h
    simp [h]
  · rename_i h
    simp [h]

@[simp] theorem applyNow_state (c : Choice) (inv : Bool) : (o.applyNow c inv).state = o.state := by rw [applyNow_eq]

theorem setEnable_quiet (hs : o.state = .quiet) (e : Bool) : o.setEnable e = { o with
    enable := e, state := if e = true ∧ o.choice ≠ .off then .starting else .quiet
    noWait := if e = true ∧ o.choice ≠ .off then false else o.noWait } := by
  by_cases h : e = true ∧ o.choice ≠ .off <;> simp [setEnable, hs, h]

theorem setEnable_starting (hs : o.state = .starting) (e : Bool) : o.setEnable e = { o with
    enable := e, state := if e = true ∧ o.choice ≠ .off then .starting else .quiet } := by
  by_cases h : e = true ∧ o.choice ≠ .off <;> simp [setEnable, hs, h]

theorem setEnable_period (hs : o.state = .running ∨ o.state = .closing) (e : Bool) : o.setEnable e = { o with
    enable := e, state := if e then .running else .closing } := by
  obtain hs | hs := hs <;> cases e <;> simp [setEnable, hs]

theorem setEnable_paused (hs : o.state = .paused) (e : Bool) : o.setEnable e = { o with
    enable := e, state := if e then .paused else .quiet } := by
  cases e <;> simp [setEnable, hs]

theorem set_now (hs : o.state = .quiet ∨ o.state = .starting ∨ o.state = .paused) (c : Choice) (inv e : Bool) :
    o.set c inv e = (o.applyNow c inv).setEnable e := by
  obtain hs | hs | hs := hs <;> simp [set, hs]

theorem set_later (hs : o.state = .running ∨ o.state = .closing) (c : Choice) (inv e : Bool) :
    o.set c inv e = { o with
      enable := e, state := if e then .running else .closing
      staged := if c = o.choice ∧ inv = o.inv ∧ e = o.enable then none else some ⟨c, inv⟩ } := by
  have staged : o.set c inv e = (o.stage c inv e).setEnable e := by
    obtain hs | hs := hs <;> simp [set, hs]
  rw [staged, setEnable_period (o := o.stage c inv e) hs]
  rfl

end ClockOut

theorem exec_setClockOutput {s : State} (hr : s.hub.Ready) (tag : Tag) {i : Nat} (hi : i < 4) {o : ClockOut} (ho : s.hub.out i = some o)
    (c : Choice) (inv e : Bool) : exec (.setClockOutput tag [oneByte i, oneByte c.code, flagByte inv, flagByte e]) s =
      s.answered (s.hub.putOut i (o.set c inv e)) 0x10 tag .ok [] := by
  have number : (oneByte i).toNat = i := toNat_oneByte (by omega)
  have output : (s.hub.withLink s.hub.link.takeEntry).out i = some o := ho
  refine State.onHub_answered (f := setClockOutput) hr .ok [] ?_ rfl rfl
  simp [setClockOutput, number, output, Hub.accept]
  rfl

/-- Settles O10: by the output's state; outside a period choice and inversion act at once, in a period they are staged. -/
theorem setClockOutputTable : Obligations.SetClockOutputTable := by
  intro s tag i o c inv e hr hi ho
  refine ⟨o.set c inv e, exec_setClockOutput hr tag hi ho c inv e, ?_⟩
  cases hs : o.state with
  | quiet =>
    rw [ClockOut.set_now (.inl hs), ClockOut.setEnable_quiet ((ClockOut.applyNow_state c inv).trans hs), ClockOut.applyNow_eq]
    simp +contextual
  | starting =>
    rw [ClockOut.set_now (.inr (.inl hs)), ClockOut.setEnable_starting ((ClockOut.applyNow_state c inv).trans hs), ClockOut.applyNow_eq]
    simp +contextual [hs]
  | paused =>
    rw [ClockOut.set_now (.inr (.inr hs)), ClockOut.setEnable_paused ((ClockOut.applyNow_state c inv).trans hs), ClockOut.applyNow_eq]
    simp +contextual [hs]
  | running =>
    rw [ClockOut.set_later (.inl hs)]
    simp
  | closing =>
    rw [ClockOut.set_later (.inr hs)]
    simp

/-! ### The end of a period (R21, R22, R24) -/

namespace ClockOut

variable {o : ClockOut}

theorem inactiveHalf_eq (cur : OutSetting) :
    o.inactiveHalf cur = if cur.choice = .word then o.elapsed / 2 else cur.choice.divisor / 2 := by
  obtain ⟨choice, inv⟩ := cur
  cases choice <;> rfl

/-- What every end of a period makes of an output, with the setting `new` in the place of `cur`; the state, whether a period follows and
whether the wait applies are still to be set (`periodEnd_sets`). -/
def ended (o : ClockOut) (cur new : OutSetting) : ClockOut :=
  { o with
    choice := new.choice, inv := new.inv, staged := none, period := none, change := .none
    heldCycles := if new.inv = cur.inv then o.inactiveHalf cur else 0, elapsed := 0, noWait := false }

theorem periodEnd_none (hp : o.period = none) (d : Nat) (f : Bool) : o.periodEnd d f = o := by simp [periodEnd, hp]

section periodEnd

variable {cur new : OutSetting} (hp : o.period = some cur) (hn : new = o.staged.getD ⟨o.choice, o.inv⟩) (d : Nat) (f : Bool)
include hp hn

theorem periodEnd_quiet (h : o.state = .closing ∨ new.choice = .off) : o.periodEnd d f = { o.ended cur new with state := .quiet } := by
  simp [periodEnd, ended, hp, ← hn, h]

theorem periodEnd_across (hs : o.state ≠ .closing) (ho : new.choice ≠ .off) (hc : o.change = .across) :
    o.periodEnd d f = { o.ended cur new with state := .paused, noWait := decide (new.inv = cur.inv) } := by
  simp [periodEnd, ended, hp, ← hn, hs, ho, hc]

theorem periodEnd_within (hs : o.state ≠ .closing) (hw : new.choice = .word) (hc : o.change = .within) :
    o.periodEnd d f = { o.ended cur new with state := .starting, noWait := decide (new.inv = cur.inv) } := by
  simp [periodEnd, ended, hp, ← hn, hs, hw, hc]

section unchanged

/-! No rate change is left to act on an output that goes on. -/

variable (hs : o.state ≠ .closing) (ho : new.choice ≠ .off) (hc : o.change = .none ∨ o.change = .within ∧ new.choice ≠ .word)
include hs ho hc

theorem periodEnd_unchanged : o.periodEnd d f =
      if new.inv = cur.inv then
        if new.choice = cur.choice ∨ new.choice.atBoundary d f = true then { o.ended cur new with state := .running, period := some new }
        else { o.ended cur new with state := .starting, noWait := true }
      else { o.ended cur new with state := .starting } := by
  have change : o.change ≠ .across ∧ ¬ (o.change = .within ∧ new.choice = .word) := by
    obtain hc | ⟨hc, hw⟩ := hc
    · simp [hc]
    · simp [hc, hw]
  by_cases hi : new.inv = cur.inv
  · simp [periodEnd, ended, hp, ← hn, hs, ho, change, hi]
  · simp [periodEnd, ended, hp, ← hn, hs, ho, change, hi]

theorem periodEnd_moved (hi : new.inv ≠ cur.inv) : o.periodEnd d f = { o.ended cur new with state := .starting } :=
  (periodEnd_unchanged hp hn d f hs ho hc).trans (if_neg hi)

theorem periodEnd_goesOn (hi : new.inv = cur.inv) (hb : new.choice = cur.choice ∨ new.choice.atBoundary d f = true) :
    o.periodEnd d f = { o.ended cur new with state := .running, period := some new } :=
  (periodEnd_unchanged hp hn d f hs ho hc).trans ((if_pos hi).trans (if_pos hb))

theorem periodEnd_waits (hi : new.inv = cur.inv) (hk : new.choice ≠ cur.choice) (hb : new.choice.atBoundary d f = false) :
    o.periodEnd d f = { o.ended cur new with state := .starting, noWait := true } :=
  (periodEnd_unchanged hp hn d f hs ho hc).trans ((if_pos hi).trans (if_neg (by simp [hk, hb])))

end unchanged

theorem periodEnd_sets : ∃ st p w, o.periodEnd d f = { o.ended cur new with state := st, period := p, noWait := w } ∧
    (new.inv ≠ cur.inv → w = false) := by
  by_cases hq : o.state = .closing ∨ new.choice = .off
  · exact ⟨_, _, _, periodEnd_quiet hp hn d f hq, fun _ => rfl⟩
  · obtain ⟨hs, ho⟩ := not_or.1 hq
    by_cases hu : o.change = .none ∨ o.change = .within ∧ new.choice ≠ .word
    · rw [periodEnd_unchanged hp hn d f hs ho hu]
      split
      next hi =>
        split
        next => exact ⟨_, _, _, rfl, fun _ => rfl⟩
        next => exact ⟨_, _, _, rfl, fun n => absurd hi n⟩
      next => exact ⟨_, _, _, rfl, fun _ => rfl⟩
    · cases hc : o.change with
      | none => exact absurd (.inl hc) hu
      | across => exact ⟨_, _, _, periodEnd_across hp hn d f hs ho hc, decide_eq_false⟩
      | within =>
        have hw : new.choice = .word := Decidable.not_not.1 fun n => hu (.inr ⟨hc, n⟩)
        exact ⟨_, _, _, periodEnd_within hp hn d f hs hw hc, decide_eq_false⟩

end periodEnd

/-! ### The start of a period (R20) -/

section tryStart

variable {d : Nat} {f : Bool} {r : Rate} {since : Option Nat}

theorem tryStart_begins (hs : o.state = .starting) (hb : o.choice.atBoundary d f = true) (hw : o.waited r since = true) :
    o.tryStart d f r since = { o with
      state := .running, period := some ⟨o.choice, o.inv⟩, change := .none, elapsed := 0, noWait := false } := if_pos ⟨hs, hb, hw⟩

theorem tryStart_keeps (h : o.state = .starting → o.choice.atBoundary d f = true → o.waited r since ≠ true) :
    o.tryStart d f r since = o := if_neg fun ⟨hs, hb, hw⟩ => h hs hb hw

theorem tryStart_of_ne (hs : o.state ≠ .starting) : o.tryStart d f r since = o := tryStart_keeps fun h => absurd h hs

/-- What a start leaves alone. -/
theorem tryStart_setting (o : ClockOut) (d : Nat) (f : Bool) (r : Rate) (since : Option Nat) :
    let o' := o.tryStart d f r since
    o'.choice = o.choice ∧ o'.inv = o.inv ∧ o'.staged = o.staged ∧ o'.enable = o.enable ∧ (o.change = .none → o'.change = .none) := by
  obtain ⟨-, -, -, e⟩ | ⟨-, e⟩ := o.tryStart_cases d f r since
  · simp [e]
  · simp [e]

end tryStart
end ClockOut

/-! ### The events CLOCK_OUTPUT_START and CLOCK_OUTPUT_PERIOD_END -/

section events

variable {h : Hub} {i j m : Nat} {o p : ClockOut}

theorem Hub.cko_of_out (hr : h.resetN = true) (ho : h.out i = some o) (frame k : Nat) : h.cko i frame k = o.pin frame k := by
  simp [Hub.cko, hr, ho]

/-- After cycles of M and work on one output: that output. -/
theorem OutputUnit.advance_modify_same {u : OutputUnit} (ho : u.outs[i]? = some o) (m : Nat) (f : ClockOut → ClockOut) :
    ((u.advance m).outs.modify i f)[i]? = some (f (o.pass m)) := by
  simp [ho]

/-- After cycles of M and work on one output: every other. -/
theorem OutputUnit.advance_modify_other {u : OutputUnit} (hj : j ≠ i) (hp : u.outs[j]? = some p) (m : Nat) (f : ClockOut → ClockOut) :
    ((u.advance m).outs.modify i f)[j]? = some (p.pass m) := by
  simp [hp, hj.symm]

/-- `m` cycles of M from now an output begins its period of M/k (R20, R24). -/
def Hub.begins (h : Hub) (o : ClockOut) (m : Nat) : Prop :=
  o.state = .starting ∧ h.clock.switching = false ∧ h.outputs.switchPending = false ∧ 0 < o.choice.divisor ∧
    (h.outputs.divider + m) % 16 % o.choice.divisor = 0 ∧ (o.noWait = true ∨ o.choice.divisor ≤ o.heldCycles + m)

/-- Two of the conditions are the hub's; the others are those of `ClockOut.tryStart` between frame boundaries. -/
theorem Hub.begins_iff : h.begins o m ↔ ¬ (h.clock.switching = true ∨ h.outputs.switchPending = true) ∧
    (o.pass m).state = .starting ∧ (o.pass m).choice.atBoundary ((h.outputs.divider + m) % 16) false = true ∧
    (o.pass m).waited h.clock.rate none = true := by
  rw [Choice.atBoundary_inFrame, ClockOut.waited_iff, not_or, Bool.not_eq_true, Bool.not_eq_true]
  constructor
  · rintro ⟨starting, switched, noneOpen, divided, boundary, waited⟩
    exact ⟨⟨switched, noneOpen⟩, starting, ⟨divided, boundary⟩, waited.imp_right (Choice.whole_of_divisor divided _ _ ▸ ·)⟩
  · rintro ⟨⟨switched, noneOpen⟩, starting, ⟨divided, boundary⟩, waited⟩
    exact ⟨starting, switched, noneOpen, divided, boundary, waited.imp_right ((Choice.whole_of_divisor divided _ _).symm ▸ ·)⟩

theorem Hub.outputStart_of_begins (ho : h.out i = some o) (hb : h.begins o m) : (h.outputStart i m).out i =
    some { o.pass m with state := .running, period := some ⟨o.choice, o.inv⟩, change := .none, elapsed := 0, noWait := false } := by
  obtain ⟨free, starting, boundary, waited⟩ := Hub.begins_iff.1 hb
  rw [Hub.outputStart, OutputUnit.advance_switchPending, if_neg free]
  refine (OutputUnit.advance_modify_same ho m _).trans (congrArg some ?_)
  exact ClockOut.tryStart_begins starting boundary waited

theorem Hub.outputStart_of_not_begins (ho : h.out i = some o) (hb : ¬ h.begins o m) :
    (h.outputStart i m).out i = some (o.pass m) := by
  rw [Hub.outputStart, OutputUnit.advance_switchPending]
  split
  next => exact List.getElem?_map.trans (congrArg _ ho)
  next hw =>
    refine (OutputUnit.advance_modify_same ho m _).trans (congrArg some ?_)
    exact ClockOut.tryStart_keeps fun starting boundary waited => hb (Hub.begins_iff.2 ⟨hw, starting, boundary, waited⟩)

theorem Hub.outputStart_other (hj : j ≠ i) (hp : h.out j = some p) : (h.outputStart i m).out j = some (p.pass m) := by
  rw [Hub.outputStart, OutputUnit.advance_switchPending]
  split
  next => exact List.getElem?_map.trans (congrArg _ hp)
  next => exact OutputUnit.advance_modify_other hj hp m _

theorem Hub.outputStart_divider : (h.outputStart i m).outputs.divider = (h.outputs.divider + m) % 16 := by
  rw [Hub.outputStart]
  split <;> rfl

theorem Hub.outputPeriodEnd_out (ho : h.out i = some o) (f : Bool) :
    (h.outputPeriodEnd i m f).out i = some ((o.pass m).periodEnd ((h.outputs.divider + m) % 16) f) :=
  OutputUnit.advance_modify_same ho m _

theorem Hub.outputPeriodEnd_other (hj : j ≠ i) (hp : h.out j = some p) (f : Bool) :
    (h.outputPeriodEnd i m f).out j = some (p.pass m) := OutputUnit.advance_modify_other hj hp m _

end events

section rows

variable {s : State} {i m : Nat} {o : ClockOut}

theorem exec_clockOutputStart (hr : s.hub.resetN = true) (i m : Nat) :
    exec (.clockOutputStart i m) s = s.becomes (s.hub.outputStart i m) := State.onLive_becomes hr (fun h => h.outputStart i m)

theorem exec_clockOutputPeriodEnd (hr : s.hub.resetN = true) (i m : Nat) (f : Bool) :
    exec (.clockOutputPeriodEnd i m f) s = s.becomes (s.hub.outputPeriodEnd i m f) :=
  State.onLive_becomes hr (fun h => h.outputPeriodEnd i m f)

/-- Settles O11: a start is the event of `Hub.begins`; the end of a period is one of its six ways on, which share `ClockOut.ended`. -/
theorem clockOutputEvents : Obligations.ClockOutputEvents := by
  refine ⟨fun s i m o hr ho => ?_, fun s i m f o cur new hr ho hp hs hn => ?_, fun s i m f o hr ho hp => ?_⟩
  · have within := (Hub.Within.rfl' [.outputs] s.hub).outputStart (by decide) i m
    have reset := (within.resetN (by decide)).trans hr
    have step := exec_clockOutputStart hr i m
    by_cases hb : s.hub.begins o m
    · have out := Hub.outputStart_of_begins ho hb
      have ⟨_, _, _, divided, _⟩ := hb
      refine ⟨_, _, step, within, Hub.outputStart_divider, out, rfl, rfl, rfl, rfl, rfl,
        fun _ _ hj hp => Hub.outputStart_other hj hp, fun _ => ⟨rfl, rfl, fun frame k => ?_⟩, fun n => absurd hb n⟩
      rw [Hub.cko_of_out reset out]
      exact ClockOut.pin_divided (c := ⟨o.choice, o.inv⟩) rfl divided rfl frame k
    · have out := Hub.outputStart_of_not_begins ho hb
      refine ⟨_, _, step, within, Hub.outputStart_divider, out, rfl, rfl, rfl, rfl, rfl,
        fun _ _ hj hp => Hub.outputStart_other hj hp, fun n => absurd n hb, fun _ => ⟨rfl, rfl, rfl, fun idle frame k => ?_⟩⟩
      rw [Hub.cko_of_out reset out]
      exact ClockOut.pin_idle (o := o.pass m) idle frame k
  · have pass : (o.pass m).period = some cur := hp
    have within := (Hub.Within.rfl' [.outputs] s.hub).outputPeriodEnd (by decide) i m f
    have step := exec_clockOutputPeriodEnd hr i m f
    have out := Hub.outputPeriodEnd_out (m := m) ho f
    generalize (s.hub.outputs.divider + m) % 16 = d at out ⊢
    obtain ⟨st, after, w, ended, moved⟩ := ClockOut.periodEnd_sets pass hn d f
    refine ⟨_, _, step, within, out.trans (congrArg some ended), fun _ _ hj hp => Hub.outputPeriodEnd_other hj hp f,
      rfl, rfl, rfl, rfl, rfl, rfl, fun hi => ⟨if_neg hi, moved hi⟩, fun hi => (if_pos hi).trans (ClockOut.inactiveHalf_eq cur),
      fun hq => ?_, fun running hoff => ?_⟩
    · rw [← ended, ClockOut.periodEnd_quiet pass hn d f hq]
      exact ⟨rfl, rfl⟩
    have going : (o.pass m).state ≠ .closing := by simp [running]
    refine ⟨fun hc => ?_, fun hc hw => ?_, fun hc => ⟨fun hi => ?_, fun same => ?_, fun hi hk => ⟨fun hb => ?_, fun hb => ?_⟩⟩⟩
    · rw [← ended, ClockOut.periodEnd_across pass hn d f going hoff hc]
      exact ⟨rfl, rfl, decide_eq_true⟩
    · rw [← ended, ClockOut.periodEnd_within pass hn d f going hw hc]
      exact ⟨rfl, rfl, decide_eq_true⟩
    · rw [← ended, ClockOut.periodEnd_moved pass hn d f going hoff hc hi]
      exact ⟨rfl, rfl⟩
    · have kept : new.inv = cur.inv ∧ new.choice = cur.choice := ⟨congrArg _ same, congrArg _ same⟩
      rw [← ended, ClockOut.periodEnd_goesOn pass hn d f going hoff hc kept.1 (.inl kept.2), same]
      exact ⟨rfl, rfl⟩
    · rw [← ended, ClockOut.periodEnd_goesOn pass hn d f going hoff hc hi (.inr hb)]
      exact ⟨rfl, rfl⟩
    · rw [← ended, ClockOut.periodEnd_waits pass hn d f going hoff hc hi hk hb]
      exact ⟨rfl, rfl, rfl⟩
  · refine ⟨_, exec_clockOutputPeriodEnd hr i m f, ?_⟩
    rw [Hub.outputPeriodEnd_out ho, ClockOut.periodEnd_none (o := o.pass m) hp]
    rfl

end rows

/-! ### The frame boundary (R19 to R22, R24) -/

namespace ClockOut

variable {o : ClockOut} {d : Nat} {r : Rate} {since : Option Nat}

theorem restart_of_ne (hs : o.state ≠ .paused) : o.restart = o := if_neg hs

theorem restart_off (hs : o.state = .paused) (hc : o.choice = .off) : o.restart = { o with state := .quiet } :=
  (if_pos hs).trans (if_pos hc)

/-- With a choice, PAUSED is left for STARTING. -/
theorem restart_starting (hs : o.state = .paused ∨ o.state = .starting) (hc : o.choice ≠ .off) :
    o.restart = { o with state := .starting } := by
  obtain hs | hs := hs
  · exact (if_pos hs).trans (if_neg hc)
  · rw [restart_of_ne (by simp [hs]), ← hs]

/-- Unless a WORD period ends there, the boundary only restarts and starts. -/
theorem atFrameBoundary_restart (h : ∀ c, o.period = some c → c.choice ≠ .word ∨ o.change ≠ .none) :
    o.atFrameBoundary d r since = o.restart.tryStart d true r since := by
  have noEnd : ¬ (o.change = .none ∧ o.period.map OutSetting.choice = some .word) := by
    rintro ⟨hc, hw⟩
    obtain ⟨c, hp, hw⟩ := Option.map_eq_some_iff.1 hw
    exact (h c hp).elim (absurd hw) (absurd hc)
  rw [atFrameBoundary, if_neg noEnd]

/-- Where no rate change came, the boundary that ends a WORD period pauses no output, so what is left is the start. -/
theorem atFrameBoundary_word {v : Bool} (hp : o.period = some ⟨.word, v⟩) (hc : o.change = .none) :
    o.atFrameBoundary d r since = (o.periodEnd d true).tryStart d true r since := by
  rw [atFrameBoundary, if_pos ⟨hc, by rw [hp]; rfl⟩, restart_of_ne]
  by_cases hq : o.state = .closing ∨ (o.staged.getD ⟨o.choice, o.inv⟩).choice = .off
  · simp [periodEnd_quiet hp rfl d true hq]
  · obtain ⟨hs, ho⟩ := not_or.1 hq
    rw [periodEnd_unchanged hp rfl d true hs ho (.inl hc)]
    split
    next => split <;> exact OutState.noConfusion
    next => exact OutState.noConfusion

end ClockOut

/-- The divider counter after a frame boundary (R19). -/
def Hub.boundaryDivider (h : Hub) (m : Nat) : Nat :=
  if h.outputs.zeroNext = true ∨ h.clock.state = .internal then 0 else (h.outputs.divider + m) % 16

/-- An output after a frame boundary with no cue due. -/
def Hub.outAtBoundary (h : Hub) (o : ClockOut) (m : Nat) : ClockOut :=
  (o.pass m).atFrameBoundary (h.boundaryDivider m) h.clock.rate (h.outputs.sinceFrame.map (fun f => f + m))

theorem exec_frameBoundary_out {s : State} (hf : s.hub.framesRun) (hd : s.hub.noCueDue) (m : Nat) (wire : List (List SlotWord)) {i : Nat}
    {o : ClockOut} (ho : s.hub.out i = some o) : ∃ h : Hub, exec (.frameBoundary m wire) s = s.becomes h ∧ h.resetN = true ∧
      h.out i = some (s.hub.outAtBoundary o m) ∧ h.outputs.switchPending = false ∧ h.outputs.sinceFrame = some 0 ∧
      h.outputs.divider = s.hub.boundaryDivider m := by
  have outputs : (s.hub.frameBoundary m wire).outputs = (s.hub.outputsAtBoundary m).outputs := by
    rw [Hub.frameBoundary_stages _ hf.2 hd, Hub.drawn_outputs, Hub.stage8_outputs]
  refine ⟨_, exec_frameBoundary hf m wire, ((Hub.frameBoundary_within hf.2 m wire).resetN (by decide)).trans hf.1, ?_, ?_, ?_, ?_⟩
  · rw [Hub.out, outputs]
    have passed : (s.hub.outputs.advance m).outs[i]? = some (o.pass m) := List.getElem?_map.trans (congrArg _ ho)
    exact List.getElem?_map.trans (congrArg _ passed)
  · rw [outputs]
    rfl
  · rw [outputs]
    rfl
  · rw [outputs]
    rfl

section boundary

variable {h : Hub} {o : ClockOut} {m : Nat}

/-- The first period of an output that waits for one, at the boundary (R20, R24). -/
theorem Hub.outAtBoundary_first (hs : o.state = .paused ∨ o.state = .starting) (hp : o.period = none) (hc : o.choice ≠ .off) :
    h.outAtBoundary o m = ({ o.pass m with state := .starting } : ClockOut).tryStart (h.boundaryDivider m) true h.clock.rate
      (h.outputs.sinceFrame.map (fun f => f + m)) := by
  rw [outAtBoundary, ClockOut.atFrameBoundary_restart (o := o.pass m) (by simp [hp]), ClockOut.restart_starting (o := o.pass m) hs hc]

/-- The conditions of that start: a boundary of the choice, and the wait over or waived. -/
def Hub.firstPeriodAt (h : Hub) (o : ClockOut) (m : Nat) : Prop :=
  (o.choice = .word ∨ h.boundaryDivider m % o.choice.divisor = 0) ∧
    (o.noWait = true ∨ o.choice.whole h.clock.rate (h.outputs.sinceFrame.map (fun f => f + m)) ≤ o.heldCycles + m)

theorem Hub.outAtBoundary_begins (hs : o.state = .paused ∨ o.state = .starting) (hp : o.period = none) (hc : o.choice ≠ .off)
    (hb : h.firstPeriodAt o m) : h.outAtBoundary o m = { o.pass m with
      state := .running, period := some ⟨o.choice, o.inv⟩, change := .none, elapsed := 0, noWait := false } := by
  obtain ⟨boundary, waited⟩ := hb
  rw [Hub.outAtBoundary_first hs hp hc]
  exact ClockOut.tryStart_begins rfl ((Choice.atBoundary_ofFrame hc _).2 boundary) ((ClockOut.waited_iff _ _).2 waited)

theorem Hub.outAtBoundary_starting (hs : o.state = .paused ∨ o.state = .starting) (hp : o.period = none) (hc : o.choice ≠ .off)
    (hb : ¬ h.firstPeriodAt o m) : h.outAtBoundary o m = { o.pass m with state := .starting } := by
  rw [Hub.outAtBoundary_first hs hp hc]
  exact ClockOut.tryStart_keeps fun _ boundary waited =>
    hb ⟨(Choice.atBoundary_ofFrame hc _).1 boundary, (ClockOut.waited_iff _ _).1 waited⟩

/-- A PAUSED output without a choice is done (R24). -/
theorem Hub.outAtBoundary_off (hs : o.state = .paused) (hp : o.period = none) (hc : o.choice = .off) :
    h.outAtBoundary o m = { o.pass m with state := .quiet } := by
  rw [outAtBoundary, ClockOut.atFrameBoundary_restart (o := o.pass m) (by simp [hp]), ClockOut.restart_off (o := o.pass m) hs hc]
  exact ClockOut.tryStart_of_ne (by simp)

/-- An output that neither waits nor ends a WORD period sees the cycles pass. -/
theorem Hub.outAtBoundary_passes (hs : o.state ≠ .paused ∧ o.state ≠ .starting)
    (hp : ∀ c, o.period = some c → c.choice ≠ .word ∨ o.change ≠ .none) : h.outAtBoundary o m = o.pass m := by
  obtain ⟨paused, starting⟩ := hs
  rw [outAtBoundary, ClockOut.atFrameBoundary_restart (o := o.pass m) hp, ClockOut.restart_of_ne (o := o.pass m) paused]
  exact ClockOut.tryStart_of_ne starting

/-! A WORD period that ends at the boundary (R19, R21, R22). -/

section wordEnd

variable {v : Bool} {new : OutSetting} (hp : o.period = some ⟨.word, v⟩) (hc : o.change = .none)
  (hn : new = o.staged.getD ⟨o.choice, o.inv⟩)
include hp hc

theorem Hub.outAtBoundary_word : h.outAtBoundary o m = ((o.pass m).periodEnd (h.boundaryDivider m) true).tryStart (h.boundaryDivider m) true
    h.clock.rate (h.outputs.sinceFrame.map (fun f => f + m)) :=
  ClockOut.atFrameBoundary_word (o := o.pass m) hp hc

include hn

theorem Hub.outAtBoundary_setting : let o' := h.outAtBoundary o m
    o'.choice = new.choice ∧ o'.inv = new.inv ∧ o'.staged = none ∧ o'.enable = o.enable ∧ o'.change = .none := by
  obtain ⟨st, after, w, ended, -⟩ := ClockOut.periodEnd_sets (o := o.pass m) hp hn (h.boundaryDivider m) true
  obtain ⟨choice, inv, staged, enable, change⟩ := ClockOut.tryStart_setting ((o.pass m).periodEnd (h.boundaryDivider m) true)
    (h.boundaryDivider m) true h.clock.rate (h.outputs.sinceFrame.map (fun f => f + m))
  rw [Hub.outAtBoundary_word hp hc]
  rw [ended] at choice inv staged enable change ⊢
  exact ⟨choice, inv, staged, enable, change rfl⟩

theorem Hub.outAtBoundary_quiet (hq : o.state = .closing ∨ new.choice = .off) :
    h.outAtBoundary o m = { (o.pass m).ended ⟨.word, v⟩ new with state := .quiet } := by
  rw [Hub.outAtBoundary_word hp hc, ClockOut.periodEnd_quiet (o := o.pass m) hp hn _ _ hq]
  exact ClockOut.tryStart_of_ne (by simp)

/-- The changed inversion moves the pin at the boundary, so no whole period of any choice has passed there. -/
theorem Hub.outAtBoundary_moved (hs : o.state ≠ .closing) (ho : new.choice ≠ .off) (hi : new.inv ≠ v) (hm : 0 < m) :
    h.outAtBoundary o m = { (o.pass m).ended ⟨.word, v⟩ new with state := .starting } := by
  rw [Hub.outAtBoundary_word hp hc, ClockOut.periodEnd_moved (o := o.pass m) hp hn _ _ hs ho (.inl hc) hi]
  refine ClockOut.tryStart_keeps fun _ _ waited => ?_
  have frame : ∀ f, h.outputs.sinceFrame.map (fun f => f + m) = some f → 0 < f := by
    intro f e
    obtain ⟨g, -, rfl⟩ := Option.map_eq_some_iff.1 e
    omega
  have held : ((o.pass m).ended ⟨.word, v⟩ new).heldCycles = 0 := if_neg hi
  obtain waived | whole := (ClockOut.waited_iff _ _).1 waited
  · cases waived
  · exact absurd (Nat.le_trans whole (Nat.le_of_eq held)) (Nat.not_le.2 (Choice.whole_pos ho _ frame))

theorem Hub.outAtBoundary_goesOn (hs : o.state ≠ .closing) (ho : new.choice ≠ .off) (hi : new.inv = v)
    (hb : new.choice = .word ∨ h.boundaryDivider m % new.choice.divisor = 0) :
    h.outAtBoundary o m = { (o.pass m).ended ⟨.word, v⟩ new with state := .running, period := some new } := by
  rw [Hub.outAtBoundary_word hp hc, ClockOut.periodEnd_goesOn (o := o.pass m) hp hn _ _ hs ho (.inl hc) hi
    (.inr ((Choice.atBoundary_ofFrame ho _).2 hb))]
  exact ClockOut.tryStart_of_ne (by simp)

theorem Hub.outAtBoundary_waits (hs : o.state ≠ .closing) (ho : new.choice ≠ .off) (hi : new.inv = v) (hw : new.choice ≠ .word)
    (hb : h.boundaryDivider m % new.choice.divisor ≠ 0) :
    h.outAtBoundary o m = { (o.pass m).ended ⟨.word, v⟩ new with state := .starting, noWait := true } := by
  have between : new.choice.atBoundary (h.boundaryDivider m) true ≠ true := fun b =>
    ((Choice.atBoundary_ofFrame ho _).1 b).elim hw hb
  rw [Hub.outAtBoundary_word hp hc, ClockOut.periodEnd_waits (o := o.pass m) hp hn _ _ hs ho (.inl hc) hi hw
    (eq_false_of_ne_true between)]
  exact ClockOut.tryStart_keeps fun _ b => absurd b between

end wordEnd

end boundary

/-- Settles O12: each way through the boundary is one equation of `Hub.outAtBoundary`, and the pin follows from the record. -/
theorem clockOutputsAtABoundary : Obligations.ClockOutputsAtABoundary := by
  intro s m wire i o hf hd ho
  obtain ⟨h, step, reset, out, pending, since, divider⟩ := exec_frameBoundary_out hf hd m wire ho
  refine ⟨h, _, step, out, pending, since, divider, fun hs hp hc => ?_, fun whole hw hs hp hc => ?_, fun v new hs hp hc hn => ?_,
    fun hs => ?_⟩
  · rw [Hub.outAtBoundary_off hs hp hc]
  · have frame : whole = o.choice.whole s.hub.clock.rate (s.hub.outputs.sinceFrame.map (fun f => f + m)) := by
      rw [hw]
      cases o.choice <;> cases s.hub.outputs.sinceFrame <;> rfl
    rw [divider, frame]
    refine ⟨fun hb => ?_, fun hb => ?_⟩
    · rw [Hub.outAtBoundary_begins hs hp hc hb]
      exact ⟨rfl, rfl, rfl⟩
    · rw [Hub.outAtBoundary_starting hs hp hc hb]
      exact ⟨rfl, hp, rfl⟩
  · obtain ⟨choice, inv, staged, enable, change⟩ := Hub.outAtBoundary_setting (h := s.hub) (m := m) hp hc hn
    have going : o.state = .running → o.state ≠ .closing := fun running => by simp [running]
    rw [divider]
    refine ⟨choice, inv, staged, enable, change, fun hq => ?_, fun running hoff hi hm => ?_,
      fun running hi hoff hword => ⟨fun hb => ?_, fun hb => ?_⟩, fun running hw => ?_⟩
    · rw [Hub.outAtBoundary_quiet hp hc hn hq] at out ⊢
      exact ⟨rfl, rfl, fun frame k => (Hub.cko_of_out reset out frame k).trans (ClockOut.pin_idle rfl frame k)⟩
    · rw [Hub.outAtBoundary_moved hp hc hn (going running) hoff hi hm] at out ⊢
      exact ⟨rfl, rfl, if_neg hi, rfl, fun frame k => (Hub.cko_of_out reset out frame k).trans (ClockOut.pin_idle rfl frame k)⟩
    · rw [Hub.outAtBoundary_goesOn hp hc hn (going running) hoff hi (.inr hb)] at out ⊢
      exact ⟨rfl, rfl, rfl, fun frame k => (Hub.cko_of_out reset out frame k).trans
        (ClockOut.pin_divided rfl ((Choice.divisor_pos_iff _).2 ⟨hoff, hword⟩) rfl frame k)⟩
    · rw [Hub.outAtBoundary_waits hp hc hn (going running) hoff hi hword hb]
      exact ⟨rfl, rfl, rfl⟩
    · subst hw
      rw [Hub.outAtBoundary_goesOn hp hc hn (going running) (by simp) rfl (.inl rfl)] at out ⊢
      exact ⟨rfl, rfl, rfl, fun frame k => (Hub.cko_of_out reset out frame k).trans (ClockOut.pin_word rfl rfl frame k)⟩
  · refine Hub.outAtBoundary_passes ?_ ?_
    · obtain ⟨hs, -⟩ | ⟨hs | hs, -⟩ := hs <;> simp [hs]
    · rintro c hp
      obtain ⟨-, none⟩ | ⟨-, c', hp', keeps⟩ := hs
      · exact nomatch none.symm.trans hp
      · cases hp'.symm.trans hp
        exact keeps

end Sys2Proof.Machine
end

section
/-! ## Tally units: the run's table, the commands and the boundary -/

namespace Sys2Proof.Machine

/-! ### Reading a settings record back (R26) -/

@[simp] theorem TallyMode.ofCode_oneByte (m : TallyMode) : TallyMode.ofCode (oneByte m.code).toNat = some m := by cases m <;> rfl
@[simp] theorem Polarity.ofCode_oneByte (p : Polarity) : Polarity.ofCode (oneByte p.code).toNat = some p := by cases p <;> rfl

@[simp] theorem TallySettings.bytes_length (c : TallySettings) : c.bytes.length = 16 := by simp [TallySettings.bytes]

/-- The settings record that SET_TALLY carries in its body is taken as it was written. -/
theorem tallySettingsOf_bytes {c : TallySettings} (hc : c.fits) (x : Byte) : tallySettingsOf (x :: c.bytes) 1 = some c := by
  obtain ⟨width_pos, width_lt, end_lt, period_lt, oneshot_period, width_lt_period⟩ := hc
  have start_lt : c.start < 256 ^ 6 := by
    simp only [Config.positions] at end_lt
    omega
  have split : x :: c.bytes =
      [x, oneByte c.mode.code] ++ bytesOf 6 c.start ++ bytesOf 4 c.width ++ bytesOf 4 c.period ++ [oneByte c.polarity.code] := rfl
  have mode : byteAt (x :: c.bytes) 1 = (oneByte c.mode.code).toNat := rfl
  have start : fieldAt (x :: c.bytes) 2 6 = c.start := by
    rw [split, List.append_assoc, List.append_assoc]
    exact fieldAt_bytes start_lt rfl
  have width : fieldAt (x :: c.bytes) 8 4 = c.width := by
    rw [split, List.append_assoc]
    exact fieldAt_bytes width_lt (by simp)
  have period : fieldAt (x :: c.bytes) 12 4 = c.period := by
    rw [split]
    exact fieldAt_bytes period_lt (by simp)
  have polarity : byteAt (x :: c.bytes) 16 = (oneByte c.polarity.code).toNat := by
    rw [split]
    exact byteAt_append_right (k := 0)
  have inRange : ¬ (c.width = 0 ∨ Config.positions ≤ c.start + c.width) := by omega
  simp only [tallySettingsOf, Nat.reduceAdd, mode, start, width, period, polarity, TallyMode.ofCode_oneByte, Polarity.ofCode_oneByte,
    if_neg inRange]
  cases c with
  | mk m a w t p =>
    cases m with
    | oneshot => simp [show t = 0 from oneshot_period rfl]
    | periodic => simp [show ¬ t ≤ w from Nat.not_le.2 (width_lt_period rfl)]

/-! ### A run evaluated against N (R28's table) -/

namespace TallySettings

variable {c : TallySettings} {now : Nat}

theorem evaluate_waiting (h : now < c.start) : c.evaluate now = (.waiting, some c.start) := if_pos h

theorem evaluate_pulse (hm : c.mode = .oneshot) (hs : c.start ≤ now) (hw : now < c.start + c.width) :
    c.evaluate now = (.active, some (c.start + c.width)) := by
  simp [evaluate, Nat.not_lt.2 hs, hm, hw]

theorem evaluate_over (hm : c.mode = .oneshot) (hw : c.start + c.width ≤ now) : c.evaluate now = (.stopped, none) := by
  simp [evaluate, show ¬ now < c.start by omega, hm, Nat.not_lt.2 hw]

/-- In the period `k` of a train, at `r` frames into it. -/
theorem evaluate_train {k r : Nat} (hm : c.mode = .periodic) (hr : r < c.period) (hn : now = c.start + k * c.period + r) :
    c.evaluate now = if r < c.width then (.active, some (c.start + k * c.period + c.width))
      else (.resting, some (c.start + (k + 1) * c.period)) := by
  have passed : now - c.start = r + c.period * k := by
    rw [hn, Nat.mul_comm]
    omega
  have quotient : (now - c.start) / c.period = k := by
    rw [passed, Nat.add_mul_div_left _ _ (by omega), Nat.div_eq_of_lt hr, Nat.zero_add]
  have rest : now - c.start - k * c.period = r := by omega
  simp [evaluate, show ¬ now < c.start by omega, hm, quotient, rest]

theorem evaluate_high {k r : Nat} (hm : c.mode = .periodic) (hr : r < c.period) (hn : now = c.start + k * c.period + r) (hw : r < c.width) :
    c.evaluate now = (.active, some (c.start + k * c.period + c.width)) := (evaluate_train hm hr hn).trans (if_pos hw)

theorem evaluate_rest {k r : Nat} (hm : c.mode = .periodic) (hr : r < c.period) (hn : now = c.start + k * c.period + r) (hw : c.width ≤ r) :
    c.evaluate now = (.resting, some (c.start + (k + 1) * c.period)) := (evaluate_train hm hr hn).trans (if_neg (Nat.not_lt.2 hw))

/-- The rows of R28's table: before the start, in a pulse, after it, and in a train's period. -/
theorem evaluate_rows (hc : c.fits) (now : Nat) :
    now < c.start ∨ (c.mode = .oneshot ∧ c.start ≤ now ∧ now < c.start + c.width) ∨ (c.mode = .oneshot ∧ c.start + c.width ≤ now) ∨
      ∃ k r, c.mode = .periodic ∧ r < c.period ∧ now = c.start + k * c.period + r := by
  obtain ⟨-, -, -, -, -, width_lt_period⟩ := hc
  by_cases hs : now < c.start
  · exact .inl hs
  · cases hm : c.mode with
    | oneshot =>
      by_cases hw : now < c.start + c.width
      · exact .inr (.inl ⟨rfl, by omega, hw⟩)
      · exact .inr (.inr (.inl ⟨rfl, by omega⟩))
    | periodic =>
      have period_pos : 0 < c.period := Nat.zero_lt_of_lt (width_lt_period hm)
      refine .inr (.inr (.inr ⟨(now - c.start) / c.period, (now - c.start) % c.period, rfl, Nat.mod_lt _ period_pos, ?_⟩))
      have := Nat.div_add_mod' (now - c.start) c.period
      omega

/-- The next change lies ahead. -/
theorem lt_of_evaluate_edge (hc : c.fits) {e : Nat} (h : (c.evaluate now).2 = some e) : now < e := by
  obtain hs | ⟨hm, hs, hw⟩ | ⟨hm, hw⟩ | ⟨k, r, hm, hr, hn⟩ := evaluate_rows hc now
  · rw [evaluate_waiting hs] at h
    cases h
    exact hs
  · rw [evaluate_pulse hm hs hw] at h
    cases h
    exact hw
  · rw [evaluate_over hm hw] at h
    cases h
  · by_cases hw : r < c.width
    · rw [evaluate_high hm hr hn hw] at h
      cases h
      omega
    · rw [evaluate_rest hm hr hn (by omega)] at h
      cases h
      rw [Nat.succ_mul]
      omega

/-- Between its changes a run stays as it was evaluated. -/
theorem evaluate_succ_of_ne (hc : c.fits) (h : (c.evaluate now).2 ≠ some (now + 1)) : c.evaluate (now + 1) = c.evaluate now := by
  obtain hs | ⟨hm, hs, hw⟩ | ⟨hm, hw⟩ | ⟨k, r, hm, hr, hn⟩ := evaluate_rows hc now
  · rw [evaluate_waiting hs] at h ⊢
    refine evaluate_waiting (Nat.lt_of_le_of_ne hs fun e => h ?_)
    rw [← e]
  · rw [evaluate_pulse hm hs hw] at h ⊢
    refine evaluate_pulse hm (by omega) (Nat.lt_of_le_of_ne hw fun e => h ?_)
    rw [← e]
  · rw [evaluate_over hm hw]
    exact evaluate_over hm (by omega)
  · obtain ⟨-, -, -, -, -, width_lt_period⟩ := hc
    have hp := width_lt_period hm
    by_cases hw : r < c.width
    · rw [evaluate_high hm hr hn hw] at h ⊢
      have inside : r + 1 ≠ c.width := fun e => h (by rw [hn, ← e]; rfl)
      exact evaluate_high hm (r := r + 1) (by omega) (by omega) (by omega)
    · rw [evaluate_rest hm hr hn (by omega)] at h ⊢
      have inside : r + 1 ≠ c.period := fun e => h (congrArg some (by
        rw [hn, Nat.succ_mul]
        omega))
      exact evaluate_rest hm (r := r + 1) (by omega) (by omega) (by omega)

end TallySettings

/-! ### The unit: settings, run, stop and change -/

theorem Polarity.level_inactive (p : Polarity) : p.level false = decide (p = .activeLow) := by cases p <;> rfl

namespace Tally

variable {t : Tally} {c new : TallySettings} {p : Nat}

theorem set_stopped (hs : t.state = .stopped) (c : TallySettings) :
    t.set c = { t with settings := some c, pin := c.polarity.level false } := if_pos hs

theorem set_staged (hs : t.state ≠ .stopped) (c : TallySettings) : t.set c = { t with staged := some c } := if_neg hs

theorem run_stopped (ht : t.settings = some c) (hs : t.state = .stopped) (now : Nat) : t.run now = some (t.evaluated c now) := by
  simp [run, ht, hs]

theorem run_busy (hs : t.state ≠ .stopped) (now : Nat) : t.run now = none := by
  cases ht : t.settings <;> simp [run, ht, hs]

theorem evaluated_eq (ht : t.settings = some c) (now : Nat) :
    t.evaluated c now = { t with state := (c.evaluate now).1, edge := (c.evaluate now).2 } := by
  show { t with settings := some c, state := (c.evaluate now).1, edge := (c.evaluate now).2 } = _
  rw [← ht]

theorem halt_stopped (hs : t.state = .stopped) : t.halt = t := if_pos hs

theorem halt_running (hs : t.state ≠ .stopped) : t.halt =
    { settings := t.staged.or t.settings, staged := none, state := .stopped, edge := none
      pin := (t.staged.or t.settings).elim false (fun c => c.polarity.level false) } := by
  rw [halt, if_neg hs]
  cases t.staged.or t.settings <;> rfl

theorem level_eq (ht : t.settings = some c) : t.level = c.polarity.level (decide (t.state = .active)) := by simp [level, ht]

theorem move_waiting (ht : t.settings = some c) (hs : t.state = .waiting) :
    t.move p = { t with state := .active, edge := some (p + c.width) } := by
  simp [move, ht, hs]

theorem move_pulse (ht : t.settings = some c) (hs : t.state = .active) (hm : c.mode = .oneshot) :
    t.move p = { t with state := .stopped, edge := none, settings := t.staged.or t.settings, staged := none } := by
  simp [move, ht, hs, hm]

theorem move_high (ht : t.settings = some c) (hs : t.state = .active) (hm : c.mode = .periodic) :
    t.move p = { t with state := .resting, edge := some (p + (c.period - c.width)) } := by
  simp [move, ht, hs, hm]

theorem move_resting (ht : t.settings = some c) (hs : t.state = .resting) (hg : t.staged = none) :
    t.move p = { t with state := .active, edge := some (p + c.width) } := by
  simp [move, ht, hs, hg]

theorem move_resting_staged (ht : t.settings = some c) (hs : t.state = .resting) (hg : t.staged = some new) :
    t.move p = { t.evaluated new p with staged := none } := by
  simp [move, ht, hs, hg]

theorem atBoundary_edge (he : t.edge = some p) : t.atBoundary p = { t.move p with pin := (t.move p).level } := by
  simp [atBoundary, he]

theorem atBoundary_keeps (he : t.edge ≠ some p) : t.atBoundary p = { t with pin := t.level } := by
  simp [atBoundary, he]

/-- A change falls where the run evaluated a frame later finds it (R28, R29). -/
theorem move_evaluated (hc : c.fits) (ht : t.settings = some c) (hg : t.staged = none) (hv : (t.state, t.edge) = c.evaluate p)
    (he : t.edge = some (p + 1)) : t.move (p + 1) = t.evaluated c (p + 1) := by
  rw [evaluated_eq ht]
  have edge : (c.evaluate p).2 = some (p + 1) := by rw [← hv, ← he]
  have ⟨width_pos, _, _, _, _, width_lt_period⟩ := hc
  obtain hs | ⟨hm, hs, hw⟩ | ⟨hm, hw⟩ | ⟨k, r, hm, hr, hn⟩ := TallySettings.evaluate_rows hc p
  · rw [TallySettings.evaluate_waiting hs] at hv edge
    obtain ⟨state, -⟩ := Prod.mk.inj hv
    have start : c.start = p + 1 := Option.some.inj edge
    rw [move_waiting ht state]
    cases hm : c.mode with
    | oneshot => rw [TallySettings.evaluate_pulse hm (by omega) (by omega), start]
    | periodic =>
      have hp := width_lt_period hm
      rw [TallySettings.evaluate_high hm (k := 0) (r := 0) (by omega) (by omega) width_pos, start, Nat.zero_mul, Nat.add_zero]
  · rw [TallySettings.evaluate_pulse hm hs hw] at hv edge
    obtain ⟨state, -⟩ := Prod.mk.inj hv
    have stop : c.start + c.width = p + 1 := Option.some.inj edge
    rw [move_pulse ht state hm, TallySettings.evaluate_over hm (by omega), hg, Option.none_or]
  · rw [TallySettings.evaluate_over hm hw] at edge
    cases edge
  · have hp := width_lt_period hm
    have next : (k + 1) * c.period = k * c.period + c.period := Nat.succ_mul k c.period
    by_cases hw : r < c.width
    · rw [TallySettings.evaluate_high hm hr hn hw] at hv edge
      obtain ⟨state, -⟩ := Prod.mk.inj hv
      have fall : c.start + k * c.period + c.width = p + 1 := Option.some.inj edge
      rw [move_high ht state hm, TallySettings.evaluate_rest hm (k := k) (r := c.width) hp (by omega) (Nat.le_refl _)]
      congr 2
      omega
    · rw [TallySettings.evaluate_rest hm hr hn (by omega)] at hv edge
      obtain ⟨state, -⟩ := Prod.mk.inj hv
      have rise : c.start + (k + 1) * c.period = p + 1 := Option.some.inj edge
      rw [move_resting ht state hg, TallySettings.evaluate_high hm (k := k + 1) (r := 0) (by omega) (by omega) width_pos, rise]

/-- One boundary takes a run evaluated for a frame to the run evaluated for the next, and the pin with it (R27). -/
theorem atBoundary_evaluated (hc : c.fits) (ht : t.settings = some c) (hg : t.staged = none) (hv : (t.state, t.edge) = c.evaluate p) :
    t.atBoundary (p + 1) = { t.evaluated c (p + 1) with pin := (t.evaluated c (p + 1)).level } := by
  by_cases he : t.edge = some (p + 1)
  · rw [atBoundary_edge he, move_evaluated hc ht hg hv he]
  · have same : t.evaluated c (p + 1) = t := by
      rw [evaluated_eq ht, TallySettings.evaluate_succ_of_ne hc (by rwa [← hv]), ← hv]
    rw [atBoundary_keeps he, same]

end Tally

/-! ### Rows: SET_TALLY, RUN_TALLY, STOP_TALLY and the boundary -/

section rows

variable {s : State} {u : Nat} {t : Tally}

/-- Putting back the record that a unit has changes nothing. -/
theorem Hub.putTally_self {h : Hub} (ht : h.tally u = some t) : h.putTally u t = h := by
  obtain ⟨hu, e⟩ := List.getElem?_eq_some_iff.1 ht
  show h.withTallies (h.tallies.set u t) = h
  rw [← e, List.set_getElem_self]
  rfl

theorem exec_setTally (hr : s.hub.Ready) (tag : Tag) (hu : u < 4) (ht : s.hub.tally u = some t) {c : TallySettings} (hc : c.fits) :
    exec (.setTally tag (oneByte u :: c.bytes)) s = s.answered (s.hub.putTally u (t.set c)) 0x12 tag .ok [] := by
  have number : (oneByte u).toNat = u := toNat_oneByte (by omega)
  have unit : (s.hub.withLink s.hub.link.takeEntry).tally u = some t := ht
  refine State.onHub_answered (f := setTally) hr .ok [] ?_ rfl rfl
  simp [setTally, number, unit, tallySettingsOf_bytes hc, Hub.accept]
  rfl

theorem exec_stopTally (hr : s.hub.Ready) (tag : Tag) (hu : u < 4) (ht : s.hub.tally u = some t) :
    exec (.stopTally tag [oneByte u]) s = s.answered (s.hub.putTally u t.halt) 0x14 tag .ok [] := by
  have number : (oneByte u).toNat = u := toNat_oneByte (by omega)
  have unit : (s.hub.withLink s.hub.link.takeEntry).tally u = some t := ht
  refine State.onHub_answered (f := stopTally) hr .ok [] ?_ rfl rfl
  simp [stopTally, number, unit, Hub.accept]
  rfl

theorem exec_runTally_noSuch (hr : s.hub.Ready) (tag : Tag) (hu : u < 4) (ht : s.hub.tally u = some t) (hn : t.settings = none) :
    exec (.runTally tag [oneByte u]) s = s.answered s.hub 0x13 tag .noSuch [] := by
  have number : (oneByte u).toNat = u := toNat_oneByte (by omega)
  have unit : (s.hub.withLink s.hub.link.takeEntry).tally u = some t := ht
  refine State.onHub_answered (f := runTally) hr .noSuch [] ?_ rfl rfl
  simp [runTally, number, unit, hn, Hub.refuse]

theorem exec_runTally_busy (hr : s.hub.Ready) (tag : Tag) (hu : u < 4) (ht : s.hub.tally u = some t) (hn : t.settings ≠ none)
    (hs : t.state ≠ .stopped) : exec (.runTally tag [oneByte u]) s = s.answered s.hub 0x13 tag .busy [] := by
  have number : (oneByte u).toNat = u := toNat_oneByte (by omega)
  have unit : (s.hub.withLink s.hub.link.takeEntry).tally u = some t := ht
  refine State.onHub_answered (f := runTally) hr .busy [] ?_ rfl rfl
  simp [runTally, number, unit, hn, Tally.run_busy hs, Hub.refuse]

theorem exec_runTally (hr : s.hub.Ready) (tag : Tag) (hu : u < 4) (ht : s.hub.tally u = some t) {c : TallySettings}
    (hc : t.settings = some c) (hs : t.state = .stopped) :
    exec (.runTally tag [oneByte u]) s = s.answered (s.hub.putTally u (t.evaluated c s.hub.clock.n)) 0x13 tag .ok [] := by
  have number : (oneByte u).toNat = u := toNat_oneByte (by omega)
  have unit : (s.hub.withLink s.hub.link.takeEntry).tally u = some t := ht
  refine State.onHub_answered (f := runTally) hr .ok [] ?_ rfl rfl
  simp [runTally, number, unit, hc, Tally.run_stopped hc hs, Hub.accept]
  rfl

/-- Settles O13: each handler reads its operands back and puts the unit's new record; a run is the row of R28's table that N falls in. -/
theorem tallyCommands : Obligations.TallyCommands := by
  refine ⟨⟨fun s tag u t c hr hu ht hc => ?_, fun s tag u t hr hu ht => ?_⟩, fun s tag u t hr hu ht => ?_⟩
  · rw [exec_setTally hr tag hu ht hc]
    refine ⟨fun hs => ?_, fun hs => ?_⟩
    · rw [Tally.set_stopped hs, Polarity.level_inactive]
    · rw [Tally.set_staged hs]
  · rw [exec_stopTally hr tag hu ht]
    refine ⟨fun hs => ?_, fun hs => ⟨t.halt, rfl, ?_⟩⟩
    · rw [Tally.halt_stopped hs, Hub.putTally_self ht]
    · rw [Tally.halt_running hs]
      refine ⟨rfl, rfl, rfl, rfl, ?_⟩
      cases t.staged.or t.settings with
      | none => rfl
      | some c => exact c.polarity.level_inactive
  · refine ⟨exec_runTally_noSuch hr tag hu ht, exec_runTally_busy hr tag hu ht, fun c hc hf hs => ?_⟩
    refine ⟨(c.evaluate s.hub.clock.n).1, (c.evaluate s.hub.clock.n).2, ?_, fun hw => ?_, fun hm hstart hw => ?_, fun hm hw => ?_,
      fun k r hm hr hn => ⟨fun hw => ?_, fun hw => ?_⟩⟩
    · rw [exec_runTally hr tag hu ht hc hs, Tally.evaluated_eq hc]
    · rw [TallySettings.evaluate_waiting hw]
      exact ⟨rfl, rfl⟩
    · rw [TallySettings.evaluate_pulse hm hstart hw]
      exact ⟨rfl, rfl⟩
    · rw [TallySettings.evaluate_over hm hw]
      exact ⟨rfl, rfl⟩
    · rw [TallySettings.evaluate_high hm hr hn hw]
      exact ⟨rfl, rfl⟩
    · rw [TallySettings.evaluate_rest hm hr hn hw]
      exact ⟨rfl, rfl⟩

/-- A boundary with no cue due, and the unit after it. -/
theorem exec_frameBoundary_tally (hf : s.hub.framesRun) (hd : s.hub.noCueDue) (m : Nat) (wire : List (List SlotWord))
    (ht : s.hub.tally u = some t) :
    exec (.frameBoundary m wire) s = s.becomes (s.hub.stage8 m wire).drawn ∧
      (s.hub.stage8 m wire).drawn.tally u = some (t.atBoundary s.hub.clock.n) := by
  refine ⟨by rw [exec_frameBoundary hf, Hub.frameBoundary_stages _ hf.2 hd], ?_⟩
  rw [Hub.tally, Hub.drawn_tallies, Hub.stage8_tallies, List.getElem?_map, show s.hub.tallies[u]? = some t from ht]
  rfl

/-- Settles O14: evaluation and the boundary's moves agree frame by frame; staged settings by the state whose edge is reached. -/
theorem talliesAtABoundary : Obligations.TalliesAtABoundary := by
  refine ⟨fun s m wire u p t c hf hd hn ht hc fits hg _ hv => ?_, fun s m wire u t c hf hd ht hc fits hv => ?_,
    fun s m wire u t c new hf hd ht hc hg he => ?_⟩
  · obtain ⟨step, unit⟩ := exec_frameBoundary_tally hf hd m wire ht
    rw [hn, Tally.atBoundary_evaluated fits hc hg hv] at unit
    exact ⟨_, _, step, unit, rfl, hg, rfl, Tally.level_eq (t := t.evaluated c (p + 1)) rfl⟩
  · obtain ⟨step, unit⟩ := exec_frameBoundary_tally hf hd m wire ht
    have ahead : t.edge ≠ some s.hub.clock.n := fun e =>
      Nat.lt_irrefl _ (TallySettings.lt_of_evaluate_edge fits ((congrArg Prod.snd hv).symm.trans e))
    rw [Tally.atBoundary_keeps ahead, Tally.level_eq hc] at unit
    exact ⟨_, step, unit⟩
  · obtain ⟨step, unit⟩ := exec_frameBoundary_tally hf hd m wire ht
    rw [Tally.atBoundary_edge he] at unit
    refine ⟨_, _, step, unit, fun hs => ?_, fun hs hm => ?_, fun hs => ?_, fun hs hm => ?_⟩
    · rw [Tally.move_resting_staged hc hs hg]
      exact ⟨rfl, rfl, rfl, Tally.level_eq (t := { t.evaluated new _ with staged := none }) rfl⟩
    · rw [Tally.move_pulse hc hs hm, hg, Option.some_or]
      exact ⟨rfl, rfl, rfl, rfl,
        Tally.level_eq (t := { t with settings := some new, staged := none, state := .stopped, edge := none }) rfl⟩
    · rw [Tally.move_waiting hc hs]
      exact ⟨hc, hg, rfl, rfl, Tally.level_eq (t := { t with state := .active, edge := _ }) hc⟩
    · rw [Tally.move_high hc hs hm]
      exact ⟨hc, hg, rfl, rfl⟩

end rows

end Sys2Proof.Machine
end

section
/-! ## Capture at a frame boundary

What each stage of a boundary leaves of the streams' rings, what the ports have yielded, and from both what capture makes of every stream. -/

namespace Sys2Proof.Machine

/-! ### Ports: what is yielded for the frame (R72, R119) -/

theorem Hub.port_putPort_ne {h : Hub} {i j : Nat} (hij : i ≠ j) (p : Port) : (h.putPort i p).port j = h.port j := by
  simp [Hub.port, List.getElem?_set_ne hij]

/-- A port settling changes no other port. -/
theorem Hub.settleStep_port_ne {h : Hub} {i j : Nat} (hij : i ≠ j) (p : Nat) : (h.settleStep p i).port j = h.port j := by
  unfold Hub.settleStep
  split
  · rfl
  · split
    · exact Hub.port_putPort_ne hij _
    · exact Hub.port_putPort_ne hij _
    · rfl

/-- A port's idle mark tells whether it is RUNNING (R72). -/
def Hub.markedIdle (h : Hub) (i : Nat) : Prop := ∀ pt, h.port i = some pt → pt.yieldIdle = decide (pt.state ≠ .running)

/-- One port's share of the boundary, as `portsBegin` repeats it. -/
def Hub.portBegins (p : Nat) (wire : List (List SlotWord)) (h : Hub) (i : Nat) : Hub :=
  match (h.settleStep p i).port i with
  | none => h.settleStep p i
  | some pt => (h.settleStep p i).putPort i (pt.yieldFrame (h.settleStep p i).draws i (wire.getD i []))

theorem Hub.portsBegin_eq (h : Hub) (p : Nat) (wire : List (List SlotWord)) :
    h.portsBegin p wire = forEach Config.nPorts 0 (Hub.portBegins p wire) h := rfl

theorem Hub.portBegins_port_ne {h : Hub} {i j : Nat} (hij : i ≠ j) (p : Nat) (wire : List (List SlotWord)) :
    (h.portBegins p wire i).port j = h.port j := by
  unfold Hub.portBegins
  split
  · exact Hub.settleStep_port_ne hij p
  · exact (Hub.port_putPort_ne hij _).trans (Hub.settleStep_port_ne hij p)

theorem Hub.portBegins_markedIdle (h : Hub) (p : Nat) (wire : List (List SlotWord)) (i : Nat) : (h.portBegins p wire i).markedIdle i := by
  intro pt hp
  unfold Hub.portBegins at hp
  split at hp
  next none => exact nomatch none.symm.trans hp
  next found =>
    cases (Hub.port_putPort found).symm.trans hp
    rfl

/-- After the ports' first share every port is marked as it stands. -/
theorem Hub.portsBegin_markedIdle (h : Hub) (p : Nat) (wire : List (List SlotWord)) {i : Nat} (hi : i < 6) :
    (h.portsBegin p wire).markedIdle i := by
  have upTo : ∀ n, i < n → (forEach n 0 (Hub.portBegins p wire) h).markedIdle i := by
    intro n
    induction n with
    | zero => exact fun hn => absurd hn (Nat.not_lt_zero i)
    | succ n ih =>
      intro hn
      rw [forEach_succ_last, Nat.zero_add]
      by_cases he : n = i
      · subst he
        exact Hub.portBegins_markedIdle _ p wire n
      · intro pt hp
        rw [Hub.portBegins_port_ne he] at hp
        exact ih (by omega) pt hp
  exact upTo 6 hi

/-- What a capture reads of a port. -/
def Port.exchange (pt : Port) : Role × PortState × List Sample := (pt.role, pt.state, pt.yielded)

/-- Shifting out changes nothing that a capture reads. -/
theorem Hub.portsShiftOut_exchange (h : Hub) (i : Nat) : (h.portsShiftOut.port i).map Port.exchange = (h.port i).map Port.exchange := by
  refine forEach_keeps (P := fun g => (g.port i).map Port.exchange = (h.port i).map Port.exchange) (fun g k hg => ?_) _ _ h rfl
  rw [← hg]
  split
  · rfl
  · next pt hp =>
    by_cases hk : k = i
    · subst hk
      rw [Hub.port_putPort hp, hp]
      rfl
    · rw [Hub.port_putPort_ne hk]

section ports

variable {g h : Hub} {e : PortSlot} (same : (h.port e.port).map Port.exchange = (g.port e.port).map Port.exchange)

include same

/-- A port found after the boundary is one that a capture read, with the same role, state and samples. -/
theorem Hub.port_of_exchange {pt : Port} (hp : h.port e.port = some pt) :
    ∃ pt', g.port e.port = some pt' ∧ pt'.role = pt.role ∧ pt'.state = pt.state ∧ pt'.yielded = pt.yielded := by
  rw [hp] at same
  obtain ⟨pt', found, eq⟩ := Option.map_eq_some_iff.1 same.symm
  simp only [Port.exchange, Prod.mk.injEq] at eq
  obtain ⟨role, state, yielded⟩ := eq
  exact ⟨pt', found, role, state, yielded⟩

theorem Hub.yieldAt_capture {pt : Port} (hp : h.port e.port = some pt) (hr : pt.role = .capture) : g.yieldAt e = pt.yielded.getD e.slot 0 := by
  obtain ⟨pt', found, role, -, yielded⟩ := Hub.port_of_exchange same hp
  simp [Hub.yieldAt, found, role, hr, yielded]

theorem Hub.yieldAt_other (hr : ∀ pt, h.port e.port = some pt → pt.role ≠ .capture) : g.yieldAt e = 0 := by
  unfold Hub.yieldAt
  split
  · rfl
  next pt hp =>
    obtain ⟨pt', found, role, -⟩ := Hub.port_of_exchange same.symm hp
    exact if_neg (role ▸ hr pt' found)

end ports

/-- The not-running mark of a captured frame (R72), in terms of the ports after the boundary. -/
theorem Hub.yieldedIdle_iff {g h : Hub} {map : List PortSlot}
    (same : ∀ e ∈ map, (h.port e.port).map Port.exchange = (g.port e.port).map Port.exchange) (hm : ∀ e ∈ map, g.markedIdle e.port) :
    g.yieldedIdle map = true ↔ ∃ e ∈ map, ¬ ∃ pt, h.port e.port = some pt ∧ pt.state = .running := by
  unfold Hub.yieldedIdle
  rw [List.any_eq_true]
  refine exists_congr fun e => and_congr_right fun he => ?_
  split
  next hp =>
    refine ⟨fun _ ⟨pt, found, _⟩ => ?_, fun _ => rfl⟩
    obtain ⟨pt', found', -⟩ := Hub.port_of_exchange (same e he) found
    exact nomatch hp.symm.trans found'
  next pt hp =>
    obtain ⟨pt', found, -, state, -⟩ := Hub.port_of_exchange (same e he).symm hp
    rw [hm e he pt hp, decide_eq_true_eq, Decidable.not_iff_not]
    refine ⟨fun running => ⟨pt', found, state.trans running⟩, fun ⟨q, hq, running⟩ => ?_⟩
    cases found.symm.trans hq
    exact state.symm.trans running

/-! ### Streams: what changes one record alone -/

@[simp] theorem Hub.postStream_engine (h : Hub) (i : Nat) (r : StreamReason) : (h.postStream i r).engine = h.engine := by
  unfold Hub.postStream
  split <;> rfl

@[simp] theorem Hub.changeStream_engine (h : Hub) (i : Nat) (st : Stream) (r : StreamReason) :
    (h.changeStream i st r).engine = (h.putStream i st).engine := Hub.postStream_engine _ i r

/-- STREAM_STATE is posted for the record as put. -/
theorem Hub.changeStream_link {h : Hub} {i : Nat} {q : Stream} (hs : h.stream i = some q) (st : Stream) (r : StreamReason) :
    (h.changeStream i st r).link = h.link.post h.clock.n (.streamState i st.state r st.clamped st.raised st.start st.stop) := by
  simp [Hub.changeStream, Hub.postStream, Hub.stream_putStream hs]

theorem Hub.stream_of_engine {g h : Hub} (e : g.engine = h.engine) (i : Nat) : g.stream i = h.stream i := by
  rw [Hub.stream, e, Hub.stream]

theorem Hub.stream_changeStream {h : Hub} {i : Nat} {q : Stream} (hs : h.stream i = some q) (st : Stream) (r : StreamReason) :
    (h.changeStream i st r).stream i = some st :=
  (Hub.stream_of_engine (Hub.changeStream_engine h i st r) i).trans (Hub.stream_putStream hs)

/-- What fixes where a stream's frames stand in the pool. -/
def Stream.ringPlace (st : Stream) : Descriptor × Nat := (st.desc, st.firstPage)

def Hub.ringPlace (h : Hub) (i : Nat) : Option (Descriptor × Nat) := (h.stream i).map Stream.ringPlace

theorem Stream.frameWord_of_ringPlace {st q : Stream} (hp : st.ringPlace = q.ringPlace) (p : Nat) : st.frameWord p = q.frameWord p := by
  obtain ⟨desc, first⟩ := Prod.mk.inj hp
  simp [Stream.frameWord, desc, first]

/-- From `h` to `g` no stream but `i` has changed, and `i` keeps its descriptor and its pages. -/
structure Hub.OnlyStream (i : Nat) (h g : Hub) : Prop where
  others : ∀ j, j ≠ i → g.stream j = h.stream j
  ringPlace : g.ringPlace i = h.ringPlace i

namespace Hub.OnlyStream

variable {i : Nat} {h g : Hub} {q : Stream}

theorem of_engine (e : g.engine = h.engine) : Hub.OnlyStream i h g :=
  ⟨fun j _ => Hub.stream_of_engine e j, congrArg _ (Hub.stream_of_engine e i)⟩

theorem trans {k : Hub} (w : Hub.OnlyStream i h g) (v : Hub.OnlyStream i g k) : Hub.OnlyStream i h k :=
  ⟨fun j hj => (v.others j hj).trans (w.others j hj), v.ringPlace.trans w.ringPlace⟩

theorem placed (w : Hub.OnlyStream i h g) : g.ringPlace = h.ringPlace := by
  funext j
  by_cases hj : j = i
  · exact hj ▸ w.ringPlace
  · exact congrArg _ (w.others j hj)

theorem withPool (w : Hub.OnlyStream i h g) (pool : List (Nat × Sample)) :
    Hub.OnlyStream i h (g.withEngine { g.engine with pool := pool }) := w.trans ⟨fun _ _ => rfl, rfl⟩

theorem withSettled (w : Hub.OnlyStream i h g) (l : List Settled) :
    Hub.OnlyStream i h (g.withEngine { g.engine with settled := l }) := w.trans ⟨fun _ _ => rfl, rfl⟩

theorem post (w : Hub.OnlyStream i h g) (b : NoticeBody) : Hub.OnlyStream i h (g.post b) := w.trans (of_engine rfl)

theorem putStream (w : Hub.OnlyStream i h g) (hs : h.stream i = some q) {st : Stream}
    (hp : st.ringPlace = q.ringPlace := by rfl) :
    Hub.OnlyStream i h (g.putStream i st) := by
  refine w.trans ⟨fun j hj => Hub.stream_putStream_ne (Ne.symm hj), ?_⟩
  have before : g.ringPlace i = some q.ringPlace := by rw [w.ringPlace, Hub.ringPlace, hs, Option.map_some]
  obtain ⟨q', found, -⟩ := Option.map_eq_some_iff.1 before
  rw [before, Hub.ringPlace, Hub.stream_putStream found, Option.map_some, hp]

theorem changeStream (w : Hub.OnlyStream i h g) (hs : h.stream i = some q) {st : Stream} (r : StreamReason)
    (hp : st.ringPlace = q.ringPlace := by rfl) : Hub.OnlyStream i h (g.changeStream i st r) :=
  (w.putStream hs hp).trans (of_engine (Hub.postStream_engine _ i r))

end Hub.OnlyStream

section onlyStream

variable (h : Hub) (i p : Nat)

theorem Hub.trigger_only (t now : Nat) (r : StreamReason) : Hub.OnlyStream i h (h.trigger i t now r) := by
  have start : Hub.OnlyStream i h h := .of_engine rfl
  unfold Hub.trigger
  split
  · exact start
  next st hs =>
    split
    · split
      · have begun := start.changeStream hs (st := st.playTriggered t) r
        dsimp only
        split
        · split
          · exact begun.changeStream hs _
          · exact begun
        · exact begun
      · have begun := start.changeStream hs (st := st.captureTriggered t now) r
        dsimp only
        split
        · split
          · exact begun.changeStream hs _
          · exact begun
        · exact begun
    · exact start

theorem Hub.reportMark_only : Hub.OnlyStream i h (h.reportMark i p) := by
  have start : Hub.OnlyStream i h h := .of_engine rfl
  unfold Hub.reportMark
  split
  · exact start
  next st hs =>
    split
    · split
      · exact (start.putStream hs).post _
      · exact start
    · exact start

theorem Stream.settle_ringPlace (st : Stream) (pool : List (Nat × Sample)) : (st.settle pool p).2.ringPlace = st.ringPlace := by
  unfold Stream.settle
  dsimp only
  split <;> rfl

theorem Hub.settleFrame_only {st : Stream} (hs : h.stream i = some st) : Hub.OnlyStream i h (h.settleFrame i st p) := by
  have settled := ((Hub.OnlyStream.of_engine (i := i) (h := h) rfl).withSettled
    (h.engine.settled ++ settledOf st.desc.map (st.settle h.engine.pool p).1)).putStream hs (Stream.settle_ringPlace p st h.engine.pool)
  unfold Hub.settleFrame
  dsimp only
  split
  · exact (settled.post _).trans (Hub.reportMark_only _ i p)
  · exact settled.trans (Hub.reportMark_only _ i p)

theorem Hub.playBoundary_only : Hub.OnlyStream i h (h.playBoundary p i) := by
  have start : Hub.OnlyStream i h h := .of_engine rfl
  unfold Hub.playBoundary
  split
  · exact start
  next st hs =>
    split
    · exact start
    · split
      · exact Hub.settleFrame_only h i p hs
      · split
        · exact start.changeStream hs _
        · exact Hub.settleFrame_only h i p hs
      all_goals exact start

theorem Hub.writeFrame_only {st q : Stream} (hs : h.stream i = some q) (hp : st.ringPlace = q.ringPlace := by rfl) :
    Hub.OnlyStream i h (h.writeFrame i st p) := ((Hub.OnlyStream.of_engine rfl).withPool _).putStream hs hp

end onlyStream

/-! ### The stages before capture -/

/-- A CAPTURE stream that no level watch can trigger. -/
def Stream.unwatched (st : Stream) : Prop := st.desc.direction = .capture ∧ (st.state = .armed → st.desc.watch = none)

/-- From `h` to `g` the pool is the same, every ring stands where it stood, and the CAPTURE streams that no level watch can trigger are the same. -/
structure Hub.KeepsRings (h g : Hub) : Prop where
  ringPlace : g.ringPlace = h.ringPlace
  pool : g.engine.pool = h.engine.pool
  unwatched : ∀ i st, h.stream i = some st → st.unwatched → g.stream i = some st

namespace Hub.KeepsRings

variable {h g k : Hub}

theorem of_engine (e : g.engine = h.engine) : Hub.KeepsRings h g :=
  ⟨(Hub.OnlyStream.of_engine (i := 0) e).placed, congrArg _ e, fun i _ hs _ => (Hub.stream_of_engine e i).trans hs⟩

theorem trans (w : Hub.KeepsRings h g) (v : Hub.KeepsRings g k) : Hub.KeepsRings h k :=
  ⟨v.ringPlace.trans w.ringPlace, v.pool.trans w.pool, fun i st hs hu => v.unwatched i st (w.unwatched i st hs hu) hu⟩

theorem of_only {i : Nat} (w : Hub.OnlyStream i h g) (pool : g.engine.pool = h.engine.pool)
    (keeps : ∀ st, h.stream i = some st → st.unwatched → g = h) : Hub.KeepsRings h g := by
  refine ⟨w.placed, pool, fun j st hs hu => ?_⟩
  by_cases hj : j = i
  · subst hj
    rw [keeps st hs hu, hs]
  · rw [w.others j hj, hs]

theorem forEach {f : Hub → Nat → Hub} (hf : ∀ g i, Hub.KeepsRings g (f g i)) (n lo : Nat) (h : Hub) :
    Hub.KeepsRings h (Machine.forEach n lo f h) :=
  forEach_keeps (P := Hub.KeepsRings h) (fun g i w => w.trans (hf g i)) n lo h (of_engine rfl)

end Hub.KeepsRings

theorem Hub.changeStream_pool (h : Hub) (i : Nat) (st : Stream) (r : StreamReason) :
    (h.changeStream i st r).engine.pool = h.engine.pool := by simp

theorem Hub.trigger_pool (h : Hub) (i t now : Nat) (r : StreamReason) : (h.trigger i t now r).engine.pool = h.engine.pool := by
  unfold Hub.trigger
  dsimp only
  repeat' split
  all_goals simp

theorem Hub.reportMark_pool (h : Hub) (i p : Nat) : (h.reportMark i p).engine.pool = h.engine.pool := by
  unfold Hub.reportMark
  repeat' split
  all_goals simp

theorem Hub.settleFrame_pool (h : Hub) (i : Nat) (st : Stream) (p : Nat) : (h.settleFrame i st p).engine.pool = h.engine.pool := by
  unfold Hub.settleFrame
  dsimp only
  rw [Hub.reportMark_pool]
  split <;> rfl

theorem Hub.playBoundary_pool (h : Hub) (p i : Nat) : (h.playBoundary p i).engine.pool = h.engine.pool := by
  unfold Hub.playBoundary
  repeat' split
  all_goals simp [Hub.settleFrame_pool]

/-- Playout does not touch a CAPTURE stream. -/
theorem Hub.playBoundary_capture {h : Hub} {i : Nat} {st : Stream} (hs : h.stream i = some st) (hc : st.desc.direction = .capture) (p : Nat) :
    h.playBoundary p i = h := by simp [Hub.playBoundary, hs, hc]

theorem Hub.settlePlay_keepsRings (h : Hub) (p : Nat) : Hub.KeepsRings h (h.settlePlay p) := by
  have cleared : Hub.KeepsRings h (h.withEngine { h.engine with settled := [] }) := ⟨rfl, rfl, fun _ _ hs _ => hs⟩
  exact cleared.trans (.forEach (fun g i => .of_only (g.playBoundary_only i p) (g.playBoundary_pool p i)
    fun st hs hu => Hub.playBoundary_capture hs hu.1 p) _ _ _)

theorem Stream.watchMet_unwatched {st : Stream} (hu : st.unwatched) (i level : Nat) : st.watchMet i level = false := by
  by_cases ha : st.state = .armed
  · simp [Stream.watchMet, hu.2 ha]
  · simp [Stream.watchMet, ha]

theorem Hub.levelWatch_keepsRings (h : Hub) (i level t now : Nat) : Hub.KeepsRings h (h.levelWatch i level t now) := by
  refine .forEach (fun g k => ?_) _ _ h
  split
  · exact .of_engine rfl
  next st hs =>
    split
    next met =>
      refine .of_only (g.trigger_only k t now .triggerLevel) (g.trigger_pool k t now _) fun q hq hu => ?_
      cases hs.symm.trans hq
      exact absurd (met.symm.trans (Stream.watchMet_unwatched hu i level)) Bool.noConfusion
    · exact .of_engine rfl

theorem Hub.meterPeriodEnd_keepsRings (h : Hub) (p frames i : Nat) : Hub.KeepsRings h (h.meterPeriodEnd p frames i) := by
  unfold Hub.meterPeriodEnd
  split
  · exact .of_engine rfl
  next m _ =>
    split
    · exact .of_engine rfl
    · have shown : Hub.Within [.meters, .surface] h ((h.putMeter i (m.evaluated (levelIndex m.peak))).meterDisplay i
          (m.evaluated (levelIndex m.peak))) :=
        ((Hub.Within.rfl' _ h).putMeter (by decide) _ _).meterDisplay (by decide) (by decide) _ _
      exact (Hub.KeepsRings.of_engine (shown.engine (by decide))).trans (Hub.levelWatch_keepsRings _ _ _ _ _)

theorem Hub.metersPeriodEnd_keepsRings (h : Hub) (p : Nat) : Hub.KeepsRings h (h.metersPeriodEnd p) := by
  unfold Hub.metersPeriodEnd
  dsimp only
  split
  · exact .forEach (fun g i => g.meterPeriodEnd_keepsRings p _ i) _ _ h
  · exact .of_engine rfl

theorem Hub.stage5_keepsRings (h : Hub) (m : Nat) (w : List (List SlotWord)) : Hub.KeepsRings h (h.stage5 m w) := by
  have before : Hub.KeepsRings h (h.stage2 m w) :=
    .of_engine (((h.stage2_within m w).engine (by decide)).trans ((h.stage1_within w).engine (by decide)))
  have watched : Hub.KeepsRings h (h.stage3 m w) := before.trans (Hub.metersPeriodEnd_keepsRings _ _)
  exact (watched.trans (.of_engine ((h.stage4_within m w).engine (by decide)))).trans (Hub.settlePlay_keepsRings _ _)

/-! ### One stream's capture (R71 to R73, R79, R81) -/

/-- A CAPTURE stream that writes the frame p: ARMED, or RUNNING and not at its E. -/
def Stream.writes (st : Stream) (p : Nat) : Prop := st.state = .armed ∨ st.state = .running ∧ st.stop ≠ some p

/-- A CAPTURE stream after the boundary that begins frame p. -/
def Stream.captured (st : Stream) (p : Nat) (idle : Bool) : Stream :=
  match st.state with
  | .armed => st.recordFrame p idle
  | .running =>
    if st.stop = some p then { st with state := .draining }
    else if st.overruns p then
      if st.charge.2 then (st.overrun.recordFrame p idle).halt else st.overrun.recordFrame p idle
    else st.recordFrame p idle
  | .idle => st
  | .draining => st
  | .halted => st

theorem Hub.stream_writeFrame {h : Hub} {i : Nat} {q : Stream} (hs : h.stream i = some q) (st : Stream) (p : Nat) :
    (h.writeFrame i st p).stream i = some (st.recordFrame p (h.yieldedIdle st.desc.map)) := Hub.stream_putStream (q := q) hs

/-- The five rows of a CAPTURE stream's boundary: it rests, its run ends there, the frame joins the ring, or the ring overruns, and the allowance
holds or is exhausted. -/
theorem Stream.capture_cases (st : Stream) (p : Nat) :
    (st.state ≠ .armed ∧ st.state ≠ .running) ∨ (st.state = .running ∧ st.stop = some p) ∨
      (st.writes p ∧ (st.state = .running → st.overruns p = false)) ∨
      ((st.state = .running ∧ st.stop ≠ some p) ∧ st.overruns p = true ∧ st.charge.2 = false) ∨
      ((st.state = .running ∧ st.stop ≠ some p) ∧ st.overruns p = true ∧ st.charge.2 = true) := by
  by_cases ha : st.state = .armed
  · exact .inr (.inr (.inl ⟨.inl ha, fun hr => nomatch ha.symm.trans hr⟩))
  by_cases hr : st.state = .running
  · by_cases he : st.stop = some p
    · exact .inr (.inl ⟨hr, he⟩)
    · cases ho : st.overruns p with
      | false => exact .inr (.inr (.inl ⟨.inr ⟨hr, he⟩, fun _ => rfl⟩))
      | true =>
        cases hx : st.charge.2 with
        | false => exact .inr (.inr (.inr (.inl ⟨⟨hr, he⟩, rfl, rfl⟩)))
        | true => exact .inr (.inr (.inr (.inr ⟨⟨hr, he⟩, rfl, rfl⟩)))
  · exact .inl ⟨ha, hr⟩

theorem Stream.overruns_iff {st : Stream} {p d : Nat} (hd : st.dp = some d) : st.overruns p = true ↔ d + st.desc.capacity = p := by
  simp [Stream.overruns, hd]

theorem Stream.charge_iff (st : Stream) : st.charge.2 = true ↔ st.allowance = 1 ∧ st.desc.reload ≠ 0 := by simp [Stream.charge]

namespace Stream

variable {st : Stream} {p : Nat} (idle : Bool)

theorem captured_rests (hr : st.state ≠ .armed ∧ st.state ≠ .running) : st.captured p idle = st := by
  unfold captured
  split <;> simp_all

theorem captured_ends (hr : st.state = .running ∧ st.stop = some p) : st.captured p idle = { st with state := .draining } := by
  simp [captured, hr]

theorem captured_appends (hw : st.writes p) (ho : st.state = .running → st.overruns p = false) : st.captured p idle = st.recordFrame p idle := by
  obtain ha | ⟨hr, he⟩ := hw
  · simp [captured, ha]
  · simp [captured, hr, he, ho hr]

theorem captured_overruns (hr : st.state = .running ∧ st.stop ≠ some p) (ho : st.overruns p = true) (hx : st.charge.2 = false) :
    st.captured p idle = st.overrun.recordFrame p idle := by simp [captured, hr, ho, hx]

theorem captured_halts (hr : st.state = .running ∧ st.stop ≠ some p) (ho : st.overruns p = true) (hx : st.charge.2 = true) :
    st.captured p idle = (st.overrun.recordFrame p idle).halt := by simp [captured, hr, ho, hx]

/-- A written frame's mark is recorded in its slot, whatever else the boundary does to the stream (R72). -/
theorem captured_notRunning (hw : st.writes p) : (st.captured p idle).notRunning = memberSet st.notRunning (p % st.desc.capacity) idle := by
  obtain ⟨ha, hr⟩ | ⟨hr, he⟩ | ⟨-, ho⟩ | ⟨hr, ho, hx⟩ | ⟨hr, ho, hx⟩ := st.capture_cases p
  · exact absurd hw (by simp [writes, ha, hr])
  · exact absurd hw (by simp [writes, hr, he])
  · rw [captured_appends idle hw ho]
    rfl
  · rw [captured_overruns idle hr ho hx]
    rfl
  · rw [captured_halts idle hr ho hx]
    rfl

theorem captured_ringPlace : (st.captured p idle).ringPlace = st.ringPlace := by
  obtain hr | hr | ⟨hw, ho⟩ | ⟨hr, ho, hx⟩ | ⟨hr, ho, hx⟩ := st.capture_cases p
  · rw [captured_rests idle hr]
  · rw [captured_ends idle hr]
    rfl
  · rw [captured_appends idle hw ho]
    rfl
  · rw [captured_overruns idle hr ho hx]
    rfl
  · rw [captured_halts idle hr ho hx]
    rfl

end Stream

section capture

variable {h : Hub} {i : Nat} {st : Stream} {p : Nat} (hs : h.stream i = some st) (hc : st.desc.direction = .capture)

include hs hc

theorem Hub.captureBoundary_rests (hr : st.state ≠ .armed ∧ st.state ≠ .running) : h.captureBoundary p i = h := by
  obtain ⟨ha, hr⟩ := hr
  cases he : st.state <;> simp_all [Hub.captureBoundary]

theorem Hub.captureBoundary_ends (hr : st.state = .running ∧ st.stop = some p) :
    h.captureBoundary p i = h.changeStream i { st with state := .draining } st.stopReason := by
  simp [Hub.captureBoundary, hs, hc, hr]

theorem Hub.captureBoundary_appends (hw : st.writes p) (ho : st.state = .running → st.overruns p = false) :
    h.captureBoundary p i = h.writeFrame i st p := by
  obtain ha | ⟨hr, he⟩ := hw
  · simp [Hub.captureBoundary, hs, hc, ha]
  · simp [Hub.captureBoundary, hs, hc, hr, he, ho hr]

theorem Hub.captureBoundary_overruns (hr : st.state = .running ∧ st.stop ≠ some p) (ho : st.overruns p = true) (hx : st.charge.2 = false) :
    h.captureBoundary p i = h.writeFrame i st.overrun p := by
  simp [Hub.captureBoundary, hs, hc, hr, ho, hx]

theorem Hub.captureBoundary_halts (hr : st.state = .running ∧ st.stop ≠ some p) (ho : st.overruns p = true) (hx : st.charge.2 = true) :
    h.captureBoundary p i = (h.writeFrame i st.overrun p).changeStream i
      (st.overrun.recordFrame p (h.yieldedIdle st.desc.map)).halt .allowance := by
  have found : (h.writeFrame i st.overrun p).stream i = some (st.overrun.recordFrame p (h.yieldedIdle st.desc.map)) :=
    Hub.stream_writeFrame hs st.overrun p
  simp [Hub.captureBoundary, hs, hc, hr, ho, hx, found]

theorem Hub.captureBoundary_stream : (h.captureBoundary p i).stream i = some (st.captured p (h.yieldedIdle st.desc.map)) := by
  obtain hr | hr | ⟨hw, ho⟩ | ⟨hr, ho, hx⟩ | ⟨hr, ho, hx⟩ := st.capture_cases p
  · rw [Hub.captureBoundary_rests hs hc hr, Stream.captured_rests _ hr, hs]
  · rw [Hub.captureBoundary_ends hs hc hr, Stream.captured_ends _ hr]
    exact Hub.stream_changeStream hs _ _
  · rw [Hub.captureBoundary_appends hs hc hw ho, Stream.captured_appends _ hw ho]
    exact Hub.stream_writeFrame hs st p
  · rw [Hub.captureBoundary_overruns hs hc hr ho hx, Stream.captured_overruns _ hr ho hx]
    exact Hub.stream_writeFrame hs st.overrun p
  · rw [Hub.captureBoundary_halts hs hc hr ho hx, Stream.captured_halts _ hr ho hx]
    exact Hub.stream_changeStream (Hub.stream_writeFrame hs st.overrun p) _ _

theorem Hub.captureBoundary_pool_writes (hw : st.writes p) :
    (h.captureBoundary p i).engine.pool = writeCaptured h st.desc.map (st.frameWord p) h.engine.pool := by
  obtain ⟨ha, hr⟩ | ⟨hr, he⟩ | ⟨-, ho⟩ | ⟨hr, ho, hx⟩ | ⟨hr, ho, hx⟩ := st.capture_cases p
  · exact absurd hw (by simp [Stream.writes, ha, hr])
  · exact absurd hw (by simp [Stream.writes, hr, he])
  · rw [Hub.captureBoundary_appends hs hc hw ho]
    rfl
  · rw [Hub.captureBoundary_overruns hs hc hr ho hx]
    rfl
  · rw [Hub.captureBoundary_halts hs hc hr ho hx, Hub.changeStream_pool]
    rfl

theorem Hub.captureBoundary_pool_rests (hn : ¬ st.writes p) : (h.captureBoundary p i).engine.pool = h.engine.pool := by
  obtain hr | hr | ⟨hw, -⟩ | ⟨hr, -⟩ | ⟨hr, -⟩ := st.capture_cases p
  · rw [Hub.captureBoundary_rests hs hc hr]
  · rw [Hub.captureBoundary_ends hs hc hr, Hub.changeStream_pool]
  · exact absurd hw hn
  · exact absurd (.inr hr) hn
  · exact absurd (.inr hr) hn

end capture

theorem Hub.captureBoundary_other {h : Hub} {i : Nat} (hn : ¬ ∃ st, h.stream i = some st ∧ st.desc.direction = .capture) (p : Nat) :
    h.captureBoundary p i = h := by
  unfold Hub.captureBoundary
  split
  · rfl
  next st hs =>
    split
    · rfl
    next hc => exact absurd ⟨st, hs, hc⟩ hn

theorem Hub.captureBoundary_only (h : Hub) (p i : Nat) : Hub.OnlyStream i h (h.captureBoundary p i) := by
  have start : Hub.OnlyStream i h h := .of_engine rfl
  by_cases hn : ∃ st, h.stream i = some st ∧ st.desc.direction = .capture
  · obtain ⟨st, hs, hc⟩ := hn
    obtain hr | hr | ⟨hw, ho⟩ | ⟨hr, ho, hx⟩ | ⟨hr, ho, hx⟩ := st.capture_cases p
    · rw [Hub.captureBoundary_rests hs hc hr]
      exact start
    · rw [Hub.captureBoundary_ends hs hc hr]
      exact start.changeStream hs _
    · rw [Hub.captureBoundary_appends hs hc hw ho]
      exact Hub.writeFrame_only h i p hs
    · rw [Hub.captureBoundary_overruns hs hc hr ho hx]
      exact Hub.writeFrame_only h i p hs
    · rw [Hub.captureBoundary_halts hs hc hr ho hx]
      exact (Hub.writeFrame_only h i p hs).changeStream hs _
  · rw [Hub.captureBoundary_other hn]
    exact start

/-- Word w stands in the frame p of CAPTURE stream j (R37). -/
def Hub.inFrame (h : Hub) (p w j : Nat) : Prop :=
  ∃ st c, h.stream j = some st ∧ st.desc.direction = .capture ∧ c < st.desc.map.length ∧ w = st.frameWord p + c

theorem Hub.inFrame_of_ringPlace {g h : Hub} (hp : g.ringPlace = h.ringPlace) {p w j : Nat} (hw : g.inFrame p w j) : h.inFrame p w j := by
  obtain ⟨st, c, hs, hc, hlt, rfl⟩ := hw
  have same : (h.stream j).map Stream.ringPlace = some st.ringPlace := by
    rw [← Option.map_some, ← hs]
    exact (congrFun hp j).symm
  obtain ⟨q, hq, place⟩ := Option.map_eq_some_iff.1 same
  obtain ⟨desc, -⟩ := Prod.mk.inj place
  exact ⟨q, c, hq, desc ▸ hc, desc ▸ hlt, by rw [Stream.frameWord_of_ringPlace place]⟩

/-- A stream's capture writes its frame's words alone. -/
theorem Hub.captureBoundary_poolRead {h : Hub} {p w i : Nat} (hw : ¬ h.inFrame p w i) :
    poolRead (h.captureBoundary p i).engine.pool w = poolRead h.engine.pool w := by
  by_cases hn : ∃ st, h.stream i = some st ∧ st.desc.direction = .capture
  · obtain ⟨st, hs, hc⟩ := hn
    by_cases hwr : st.writes p
    · rw [Hub.captureBoundary_pool_writes hs hc hwr, poolRead_writeCaptured, dif_neg]
      rintro ⟨lo, hi⟩
      exact hw ⟨st, w - st.frameWord p, hs, hc, by omega, by omega⟩
    · rw [Hub.captureBoundary_pool_rests hs hc hwr]
  · rw [Hub.captureBoundary_other hn]

/-- A written frame's words hold what the ports yield for the map (R71). -/
theorem Hub.captureBoundary_poolRead_frame {h : Hub} {i c : Nat} {st : Stream} {p : Nat} (hs : h.stream i = some st)
    (hc : st.desc.direction = .capture) (hw : st.writes p) {e : PortSlot} (he : st.desc.map[c]? = some e) :
    poolRead (h.captureBoundary p i).engine.pool (st.frameWord p + c) = h.yieldAt e := by
  obtain ⟨hlt, rfl⟩ := List.getElem?_eq_some_iff.1 he
  rw [Hub.captureBoundary_pool_writes hs hc hw, poolRead_writeCaptured, dif_pos (by omega)]
  congr 2
  omega

/-! ### Capture across the streams -/

theorem forEach_zero {σ : Type} (lo : Nat) (f : σ → Nat → σ) (s : σ) : forEach 0 lo f s = s := rfl

theorem forEach_append {σ : Type} (f : σ → Nat → σ) (a : Nat) : ∀ (b lo : Nat) (s : σ),
    forEach (a + b) lo f s = forEach b (lo + a) f (forEach a lo f s)
  | 0, _, _ => rfl
  | b + 1, lo, s => by
    rw [← Nat.add_assoc, forEach_succ_last, forEach_append f a b, forEach_succ_last, Nat.add_assoc]

/-- The hub as the boundary comes to stream k's capture. -/
def Hub.captureUpTo (h : Hub) (m : Nat) (w : List (List SlotWord)) (k : Nat) : Hub :=
  forEach k 0 (Hub.captureBoundary h.clock.n) (h.stage5 m w)

section upTo

variable (h : Hub) (m : Nat) (w : List (List SlotWord))

theorem Hub.captureUpTo_zero : h.captureUpTo m w 0 = h.stage5 m w := forEach_zero _ _ _

theorem Hub.captureUpTo_succ (k : Nat) : h.captureUpTo m w (k + 1) = (h.captureUpTo m w k).captureBoundary h.clock.n k := by
  unfold Hub.captureUpTo
  rw [forEach_succ_last, Nat.zero_add]

theorem Hub.captureUpTo_last : h.captureUpTo m w 16 = h.stage6 m w := by
  unfold Hub.captureUpTo Hub.stage6 Hub.captureWrite
  rfl

theorem Hub.captureUpTo_ringPlace (k : Nat) : (h.captureUpTo m w k).ringPlace = h.ringPlace := by
  induction k with
  | zero => rw [Hub.captureUpTo_zero, (h.stage5_keepsRings m w).ringPlace]
  | succ k ih =>
    rw [Hub.captureUpTo_succ, ← ih]
    exact (Hub.captureBoundary_only _ _ k).placed

/-- A stream changes at its own place alone. -/
theorem Hub.captureUpTo_stream {a b i : Nat} (hab : a ≤ b) (hi : i < a ∨ b ≤ i) :
    (h.captureUpTo m w b).stream i = (h.captureUpTo m w a).stream i := by
  induction hab with
  | refl => rfl
  | @step b hab ih =>
    have le : a ≤ b := hab
    rw [Hub.captureUpTo_succ, (Hub.captureBoundary_only _ _ b).others i (by omega)]
    exact ih (by omega)

theorem Hub.captureUpTo_poolRead {a b v : Nat} (hab : a ≤ b) (hv : ∀ j, a ≤ j → j < b → ¬ h.inFrame h.clock.n v j) :
    poolRead (h.captureUpTo m w b).engine.pool v = poolRead (h.captureUpTo m w a).engine.pool v := by
  induction hab with
  | refl => rfl
  | @step b hab ih =>
    have free : ¬ (h.captureUpTo m w b).inFrame h.clock.n v b := fun hw =>
      hv b hab (Nat.lt_succ_self b) (Hub.inFrame_of_ringPlace (h.captureUpTo_ringPlace m w b) hw)
    rw [Hub.captureUpTo_succ, Hub.captureBoundary_poolRead free]
    exact ih fun j ha hb => hv j ha (Nat.lt_succ_of_lt hb)

theorem Hub.captureUpTo_within (k : Nat) : Hub.Within [.engine, .link] (h.stage5 m w) (h.captureUpTo m w k) :=
  Hub.Within.forEach (fun _ i v => v.captureBoundary (by decide) (by decide) _ i) k 0 (Hub.Within.rfl' _ _)

/-- Nothing before stream k's capture touches the Media Clock, but for N, nor the link, but to post. -/
theorem Hub.captureUpTo_before (k : Nat) : Hub.Within (.ports :: .draws :: cueBlocks) h.advanceN (h.captureUpTo m w k) :=
  Hub.Within.forEach (fun _ i v => v.captureBoundary (by decide) (by decide) _ i) k 0
    ((((((Hub.Within.rfl' _ h.advanceN).portsBegin (by decide) (by decide) _ w).outputsAtBoundary (by decide) _).metersPeriodEnd (by decide)
      (by decide) (by decide) (by decide) _).talliesAtBoundary (by decide) _).settlePlay (by decide) (by decide) _)

theorem Hub.captureUpTo_n (k : Nat) : (h.captureUpTo m w k).clock.n = h.clock.n + 1 :=
  congrArg MediaClock.n ((h.captureUpTo_before m w k).clock (by decide))

theorem Hub.captureUpTo_reports (k : Nat) : Link.Reports h.link (h.captureUpTo m w k).link :=
  (h.captureUpTo_before m w k).linkState (by decide)

theorem Hub.captureUpTo_ports (k : Nat) : (h.captureUpTo m w k).ports = (h.stage1 w).ports := by
  rw [(h.captureUpTo_within m w k).ports (by decide), (h.stage5_within m w).ports (by decide), (h.stage4_within m w).ports (by decide),
    (h.stage3_within m w).ports (by decide), (h.stage2_within m w).ports (by decide)]

theorem Hub.captureUpTo_markedIdle (k : Nat) {i : Nat} (hi : i < 6) : (h.captureUpTo m w k).markedIdle i := by
  unfold Hub.markedIdle Hub.port
  rw [Hub.captureUpTo_ports]
  exact Hub.portsBegin_markedIdle _ _ w hi

theorem Hub.captureUpTo_append (a b : Nat) :
    h.captureUpTo m w (a + b) = forEach b a (Hub.captureBoundary h.clock.n) (h.captureUpTo m w a) := by
  unfold Hub.captureUpTo
  rw [forEach_append, Nat.zero_add]

/-- What comes after stream k's capture only posts. -/
theorem Hub.captureUpTo_after {k : Nat} (hk : k ≤ 16) : Link.Reports (h.captureUpTo m w k).link (h.stage8 m w).drawn.link := by
  have rest : h.stage6 m w = forEach (16 - k) k (Hub.captureBoundary h.clock.n) (h.captureUpTo m w k) := by
    rw [← Hub.captureUpTo_last, ← Hub.captureUpTo_append, Nat.add_sub_cancel' hk]
  have within : Hub.Within [.engine, .link, .ports, .meters, .draws] (h.captureUpTo m w k) (h.stage8 m w).drawn := by
    unfold Hub.stage8 Hub.stage7
    rw [rest]
    exact (((Hub.Within.forEach (fun _ i v => v.captureBoundary (by decide) (by decide) _ i) _ _ (Hub.Within.rfl' _ _)).portsShiftOut
      (by decide)).metersSample (by decide) (by decide) _).drawn (by decide)
  exact within.linkState (by decide)

/-! ### The hub after the boundary -/

theorem Hub.boundary_engine : (h.stage8 m w).drawn.engine = (h.captureUpTo m w 16).engine := by
  rw [Hub.drawn_engine, (h.stage8_within m w).engine (by decide), (h.stage7_within m w).engine (by decide), Hub.captureUpTo_last]

/-- The ports after the boundary are, for what a capture reads, as it read them. -/
theorem Hub.boundary_exchange (k i : Nat) :
    ((h.stage8 m w).drawn.port i).map Port.exchange = ((h.captureUpTo m w k).port i).map Port.exchange := by
  have shifted : (h.stage8 m w).drawn.port i = (h.stage6 m w).portsShiftOut.port i := by
    rw [Hub.port, Hub.drawn_ports, (h.stage8_within m w).ports (by decide)]
    rfl
  have unmoved : (h.captureUpTo m w k).port i = (h.stage6 m w).port i := by
    rw [Hub.port, Hub.port, ← Hub.captureUpTo_last, Hub.captureUpTo_ports, Hub.captureUpTo_ports]
  rw [shifted, unmoved, Hub.portsShiftOut_exchange]

/-- A word in no CAPTURE stream's frame p stays. -/
theorem Hub.boundary_poolRead {v : Nat} (hv : ∀ j, j < 16 → ¬ h.inFrame h.clock.n v j) :
    poolRead (h.stage8 m w).drawn.engine.pool v = poolRead h.engine.pool v := by
  rw [Hub.boundary_engine, h.captureUpTo_poolRead m w (Nat.zero_le 16) fun j _ hj => hv j hj, Hub.captureUpTo_zero,
    (h.stage5_keepsRings m w).pool]

variable {i : Nat} {st : Stream} (hi : i < 16) (hs : h.stream i = some st) (hu : st.unwatched)

section found

include hs hu

/-- The boundary comes to a stream's capture with its record as it was. -/
theorem Hub.captureUpTo_found : (h.captureUpTo m w i).stream i = some st := by
  rw [h.captureUpTo_stream m w (Nat.zero_le i) (.inr (Nat.le_refl i)), Hub.captureUpTo_zero]
  exact (h.stage5_keepsRings m w).unwatched i st hs hu

include hi

theorem Hub.boundary_stream : (h.stage8 m w).drawn.stream i =
    some (st.captured h.clock.n ((h.captureUpTo m w i).yieldedIdle st.desc.map)) := by
  rw [Hub.stream_of_engine (h.boundary_engine m w), h.captureUpTo_stream m w (Nat.succ_le_of_lt hi) (.inl (Nat.lt_succ_self i)),
    Hub.captureUpTo_succ]
  exact Hub.captureBoundary_stream (h.captureUpTo_found m w hs hu) hu.1

/-- A word of a frame written, which stands in no other stream's frame, holds what the port yields for the map's slot. -/
theorem Hub.boundary_poolRead_frame (hw : st.writes h.clock.n) {c : Nat} {e : PortSlot} (he : st.desc.map[c]? = some e)
    (alone : ∀ j, j < 16 → j ≠ i → ¬ h.inFrame h.clock.n (st.frameWord h.clock.n + c) j) :
    poolRead (h.stage8 m w).drawn.engine.pool (st.frameWord h.clock.n + c) = (h.captureUpTo m w i).yieldAt e := by
  rw [Hub.boundary_engine, h.captureUpTo_poolRead m w (Nat.succ_le_of_lt hi) fun j ha hj => alone j hj (by omega), Hub.captureUpTo_succ]
  exact Hub.captureBoundary_poolRead_frame (h.captureUpTo_found m w hs hu) hu.1 hw he

/-- The end of a run posts STREAM_STATE with its reason (R81). -/
theorem Hub.boundary_ends (hr : st.state = .running ∧ st.stop = some h.clock.n) : ∃ l : Link, Link.Reports h.link l ∧
    Link.Reports (l.post (h.clock.n + 1) (.streamState i .draining st.stopReason st.clamped st.raised st.start st.stop))
      (h.stage8 m w).drawn.link := by
  have found := h.captureUpTo_found m w hs hu
  refine ⟨_, h.captureUpTo_reports m w i, ?_⟩
  have after := h.captureUpTo_after m w (Nat.succ_le_of_lt hi)
  rw [Hub.captureUpTo_succ, Hub.captureBoundary_ends found hu.1 hr, Hub.changeStream_link found, Hub.captureUpTo_n] at after
  exact after

/-- An overrun that exhausts the allowance posts STREAM_STATE (R79). -/
theorem Hub.boundary_halts (hr : st.state = .running ∧ st.stop ≠ some h.clock.n) (ho : st.overruns h.clock.n = true)
    (hx : st.charge.2 = true) : ∃ l : Link, Link.Reports h.link l ∧
    Link.Reports (l.post (h.clock.n + 1) (.streamState i .halted .allowance st.clamped st.raised st.start st.stop))
      (h.stage8 m w).drawn.link := by
  have found := h.captureUpTo_found m w hs hu
  refine ⟨_, h.captureUpTo_reports m w i, ?_⟩
  have after := h.captureUpTo_after m w (Nat.succ_le_of_lt hi)
  rw [Hub.captureUpTo_succ, Hub.captureBoundary_halts found hu.1 hr ho hx,
    Hub.changeStream_link (Hub.stream_writeFrame found st.overrun h.clock.n)] at after
  have stamp : ((h.captureUpTo m w i).writeFrame i st.overrun h.clock.n).clock.n = h.clock.n + 1 := h.captureUpTo_n m w i
  rw [stamp] at after
  exact after

end found

end upTo

/-- Settles O23: up to a stream's share of capture its record, its ring's place and the pool are the same, and what follows only posts, so each
clause is one of the five rows of `Stream.capture_cases`, read off `Stream.captured`. -/
theorem captureAtABoundary : Obligations.CaptureAtABoundary := by
  intro s m w hf hd
  refine ⟨(s.hub.stage8 m w).drawn, by rw [exec_frameBoundary hf, Hub.frameBoundary_stages _ hf.2 hd], fun v hv => ?_,
    fun i st hi hs hc hw hports => ?_⟩
  · refine s.hub.boundary_poolRead m w fun j hj => ?_
    rintro ⟨st, c, hs, hc, hlt, rfl⟩
    exact hv j st c hj hs hc hlt rfl
  have hu : st.unwatched := ⟨hc, hw⟩
  have exchange := fun e : PortSlot => s.hub.boundary_exchange m w i e.port
  obtain ⟨desc, firstPage⟩ := Prod.mk.inj
    (Stream.captured_ringPlace (st := st) (p := s.hub.clock.n) ((s.hub.captureUpTo m w i).yieldedIdle st.desc.map))
  refine ⟨_, s.hub.boundary_stream m w hi hs hu, desc, firstPage, fun rests => ?_, fun armed => ?_, fun running ends => ?_,
    fun d running goes hdp => ⟨fun room => ?_, fun b hb full => ?_⟩, fun writes => ⟨?_, fun k hk => ?_, fun apart c e he => ?_⟩⟩
  · exact Stream.captured_rests _ (by rcases rests with h | h | h <;> simp [h])
  · rw [Stream.captured_appends _ (.inl armed) fun running => nomatch armed.symm.trans running]
    exact ⟨armed, rfl, if_pos armed⟩
  · exact ⟨Stream.captured_ends _ ⟨running, ends⟩, s.hub.boundary_ends m w hi hs hu ⟨running, ends⟩⟩
  · rw [Stream.captured_appends _ (.inr ⟨running, goes⟩) fun _ => Bool.eq_false_iff.2 fun o => room ((Stream.overruns_iff hdp).1 o)]
    exact ⟨running, hdp, rfl, rfl, rfl⟩
  · have ho : st.overruns s.hub.clock.n = true := (Stream.overruns_iff hdp).2 full
    have dp : st.overrun.dp = some (d + b) := by simp [Stream.overrun, hdp, hb]
    cases hx : st.charge.2 with
    | false =>
      rw [Stream.captured_overruns _ ⟨running, goes⟩ ho hx]
      exact ⟨dp, rfl, rfl, fun _ => running, fun one reload => absurd (st.charge_iff.2 ⟨one, reload⟩) (by simp [hx])⟩
    | true =>
      rw [Stream.captured_halts _ ⟨running, goes⟩ ho hx]
      exact ⟨dp, rfl, rfl, fun holds => absurd (st.charge_iff.1 hx) holds,
        fun _ _ => ⟨rfl, s.hub.boundary_halts m w hi hs hu ⟨running, goes⟩ ho hx⟩⟩
  · rw [Stream.captured_notRunning _ writes, mem_memberSet, if_pos rfl]
    exact Hub.yieldedIdle_iff (fun e _ => exchange e) fun e he => s.hub.captureUpTo_markedIdle m w i (hports e he)
  · rw [Stream.captured_notRunning _ writes, mem_memberSet, if_neg hk]
  · have word := s.hub.boundary_poolRead_frame m w hi hs hu writes he fun j hj hne ⟨st₂, c₂, hs₂, hc₂, hlt, eq⟩ =>
      apart j st₂ c c₂ hj hne hs₂ hc₂ (List.getElem?_eq_some_iff.1 he).1 hlt eq.symm
    rw [word]
    exact ⟨fun pt hp hr => Hub.yieldAt_capture (exchange e) hp hr, Hub.yieldAt_other (exchange e)⟩

end Sys2Proof.Machine
end

section
/-! ## Converter ports: configuring, starting and stopping -/

namespace Sys2Proof.Machine

/-! ### Commands on one port -/

@[simp] theorem Role.ofCode_oneByte (r : Role) : Role.ofCode (oneByte r.code).toNat = some r := by cases r <;> rfl

/-- The outcome of a command row whose handler, run with the entry held, refuses at once. -/
theorem State.onHub_refused {s : State} {code : Byte} {f : Handler} {tag : Tag} {body : List Byte} (hr : s.hub.Ready) {st : Status}
    (e : f (s.hub.withLink s.hub.link.takeEntry) ⟨tag, s.hub.link.serial⟩ body = (s.hub.withLink s.hub.link.takeEntry).refuse st) :
    s.onHub (fun h => h.command code f tag body) = s.answered s.hub code tag st [] := State.onHub_answered hr st [] e rfl rfl

/-- A one-byte port command that names a port goes on to it. -/
theorem withPort_found {h : Hub} {i : Nat} {pt : Port} (hi : i < 256) (found : h.port i = some pt) (f : Nat → Port → Hub × Handled) :
    withPort h [oneByte i] f = f i pt := by
  have number : byteAt [oneByte i] 0 = i := toNat_oneByte hi
  simp [withPort, number, found]

/-- PORT_STATE is posted for the record as put. -/
theorem Hub.postPort_putPort {h : Hub} {i : Nat} {q : Port} (found : h.port i = some q) (pt : Port) (r : PortReason) :
    (h.putPort i pt).postPort i r none 0 = (h.putPort i pt).post (.portState i pt.state r none 0) := by
  simp [Hub.postPort, Hub.port_putPort found]

/-- Posting with a reply entry held is posting first and taking the entry then. -/
theorem Hub.post_takeEntry (h : Hub) (b : NoticeBody) :
    (h.withLink h.link.takeEntry).post b = (h.post b).withLink (h.post b).link.takeEntry := by
  show h.withLink (h.link.takeEntry.post h.clock.n b) = h.withLink (h.link.post h.clock.n b).takeEntry
  rw [Link.post_takeEntry]

/-- The outcome of a command row whose handler, run with the entry held, changes a port of the hub `g`, posts PORT_STATE and accepts. -/
theorem State.onHub_portState {s : State} {code : Byte} {f : Handler} {tag : Tag} {body : List Byte} (hr : s.hub.Ready) {g : Hub}
    {i : Nat} {q pt : Port} (found : g.port i = some q) (hl : g.link = s.hub.link) {r : PortReason} {fields : List Byte}
    (e : f (s.hub.withLink s.hub.link.takeEntry) ⟨tag, s.hub.link.serial⟩ body =
      (((g.withLink g.link.takeEntry).putPort i pt).postPort i r none 0).accept fields) :
    s.onHub (fun h => h.command code f tag body) =
      s.answered ((g.putPort i pt).post (.portState i pt.state r none 0)) code tag .ok fields := by
  rw [Hub.postPort_putPort (h := g.withLink g.link.takeEntry) found] at e
  have posted := (g.putPort i pt).post_takeEntry (.portState i pt.state r none 0)
  exact State.onHub_answered hr .ok fields (e.trans (congrArg (Hub.accept · fields) posted)) (by simp [hl]) (by simp [hl])

/-! ### CONFIGURE_PORT (R111) -/

theorem Hub.mapped_iff (h : Hub) (test : PortSlot → Bool) :
    h.mapped test = true ↔ ∃ st, some st ∈ h.engine.streams ∧ ∃ e ∈ st.desc.map, test e = true := by
  rw [Hub.mapped, List.any_eq_true]
  constructor
  · rintro ⟨o, mem, ho⟩
    cases o with
    | none => cases ho
    | some st => exact ⟨st, mem, List.any_eq_true.1 ho⟩
  · rintro ⟨st, mem, he⟩
    exact ⟨some st, mem, List.any_eq_true.2 he⟩

/-- The stream check fails when a map names the port and the role changes, or names a slot that goes (R111 step 4). -/
theorem Hub.reconfigurable_eq_false_iff (h : Hub) (i : Nat) (pt : Port) (role : Role) (slots : Nat) :
    h.reconfigurable i pt role slots = false ↔ ∃ st, some st ∈ h.engine.streams ∧
      ∃ e ∈ st.desc.map, e.port = i ∧ (role ≠ pt.role ∨ slots < pt.slots ∧ slots ≤ e.slot) := by
  simp only [Hub.reconfigurable, Bool.and_eq_false_iff, Bool.or_eq_false_iff, decide_eq_false_iff_not, Bool.not_eq_false',
    Hub.mapped_iff, Bool.and_eq_true, decide_eq_true_eq, Nat.not_le]
  constructor
  · rintro (⟨changes, st, mem, e, he, port⟩ | ⟨fewer, st, mem, e, he, port, slot⟩)
    · exact ⟨st, mem, e, he, port, .inl changes⟩
    · exact ⟨st, mem, e, he, port, .inr ⟨fewer, slot⟩⟩
  · rintro ⟨st, mem, e, he, port, changes | ⟨fewer, slot⟩⟩
    · exact .inl ⟨changes, st, mem, e, he, port⟩
    · exact .inr ⟨fewer, st, mem, e, he, port, slot⟩

/-- CONFIGURE_PORT's handler on a body whose fields are in range (R111 steps 3 to 5). -/
theorem configurePort_fields {h : Hub} {i : Nat} {pt : Port} (hi : i < 256) (found : h.port i = some pt) (ctx : CommandCtx) (role : Role)
    {slots settle : Nat} (hc : slots = 2 ∨ slots = 4 ∨ slots = 8) (hs : settle < 65536) :
    configurePort h ctx ([oneByte i, oneByte role.code, oneByte slots] ++ bytesOf 2 settle) =
      if pt.state ≠ .off then h.refuse .busy
      else if h.reconfigurable i pt role slots = false then h.refuse .conflict
      else (h.putPort i (pt.configured role slots settle)).accept [] := by
  have number : (oneByte i).toNat = i := toNat_oneByte hi
  have count : (oneByte slots).toNat = slots := toNat_oneByte (by omega)
  have inRange : ¬ (slots ≠ 2 ∧ slots ≠ 4 ∧ slots ≠ 8) := by omega
  have settles : fieldAt ([oneByte i, oneByte role.code, oneByte slots] ++ bytesOf 2 settle) 3 2 = settle := by
    simpa using fieldAt_bytes (before := [oneByte i, oneByte role.code, oneByte slots]) (after := []) (w := 2) (n := settle) hs rfl
  simp only [List.cons_append, List.nil_append] at settles
  simp [configurePort, number, count, found, settles, if_neg inRange]

/-! ### SET_INIT_LIST (R112) -/

@[simp] theorem InitEntry.bytes_length (e : InitEntry) : e.bytes.length = 4 := rfl

theorem initEntries_length (entries : List InitEntry) : (entries.flatMap InitEntry.bytes).length = entries.length * 4 := by
  induction entries with
  | nil => rfl
  | cons e entries ih =>
    rw [List.flatMap_cons, List.length_append, InitEntry.bytes_length, ih, List.length_cons]
    omega

theorem rawByte_append_right {before rest : List Byte} {k : Nat} : rawByte (before ++ rest) (before.length + k) = rawByte rest k := by
  simp [rawByte, List.getD_eq_getElem?_getD, List.getElem?_append_right (Nat.le_add_right before.length k)]

/-- Init entries are read back as they were written. -/
theorem initEntriesOf_bytes (entries : List InitEntry) (addresses : ∀ e ∈ entries, e.addr ≤ 127) : ∀ before : List Byte,
    initEntriesOf (before ++ entries.flatMap InitEntry.bytes) before.length entries.length = some entries := by
  induction entries with
  | nil => exact fun _ => rfl
  | cons e entries ih =>
    intro before
    have low : e.addr ≤ 127 := addresses e List.mem_cons_self
    have rest := ih (fun x hx => addresses x (List.mem_cons_of_mem e hx)) (before ++ e.bytes)
    rw [List.append_assoc, List.length_append, InitEntry.bytes_length] at rest
    rw [List.flatMap_cons]
    have addr : byteAt (before ++ (e.bytes ++ entries.flatMap InitEntry.bytes)) before.length = e.addr :=
      (byteAt_append_right (k := 0)).trans (toNat_oneByte (by omega))
    have reg : rawByte (before ++ (e.bytes ++ entries.flatMap InitEntry.bytes)) (before.length + 1) = e.reg := rawByte_append_right
    have value : rawByte (before ++ (e.bytes ++ entries.flatMap InitEntry.bytes)) (before.length + 2) = e.value := rawByte_append_right
    have enabled : byteAt (before ++ (e.bytes ++ entries.flatMap InitEntry.bytes)) (before.length + 3) = (flagByte e.enabled).toNat :=
      byteAt_append_right
    simp [initEntriesOf, rest, addr, reg, value, enabled, low]

/-- SET_INIT_LIST's handler on a body whose fields are in range (R112). -/
theorem setInitList_fields {h : Hub} {i : Nat} {pt : Port} (hi : i < 256) (found : h.port i = some pt) (ctx : CommandCtx)
    {entries : List InitEntry} (hl : entries.length ≤ 16) (addresses : ∀ e ∈ entries, e.addr ≤ 127) :
    setInitList h ctx ([oneByte i, oneByte entries.length] ++ entries.flatMap InitEntry.bytes) =
      if pt.state = .off ∨ pt.state = .fault then (h.putPort i { pt with initList := entries }).accept [] else h.refuse .busy := by
  have number : (oneByte i).toNat = i := toNat_oneByte hi
  have count : (oneByte entries.length).toNat = entries.length := toNat_oneByte (by omega)
  have written : initEntriesOf (oneByte i :: oneByte entries.length :: entries.flatMap InitEntry.bytes) 2 entries.length = some entries :=
    initEntriesOf_bytes entries addresses [oneByte i, oneByte entries.length]
  have fits : ¬ Config.initCapacity < entries.length := Nat.not_lt.2 hl
  have width := initEntries_length entries
  have shape : countedShape (oneByte i :: oneByte entries.length :: entries.flatMap InitEntry.bytes) 2 1 4 = true := by
    simp only [countedShape, byteAt_cons_succ, byteAt_cons_zero, count, List.length_cons, Bool.and_eq_true, decide_eq_true_eq]
    omega
  simp [setInitList, shape, number, count, found, written, fits]

/-- Settles O29: each handler, its fields read back, is a choice by the port's state, and CONFIGURE_PORT's stream check is the clash. -/
theorem portSettings : Obligations.PortSettings := by
  intro s tag i pt hr hi hp
  have found : (s.hub.withLink s.hub.link.takeEntry).port i = some pt := hp
  refine ⟨fun role slots settle body hc hs hb => ?_, fun entries hl addresses => ?_⟩
  · have fields := configurePort_fields (by omega) found ⟨tag, s.hub.link.serial⟩ role hc hs
    rw [← hb] at fields
    refine ⟨fun busy => State.onHub_refused hr (fields.trans (if_pos busy)), fun off clash hclash => ?_⟩
    rw [if_neg (not_not_intro off)] at fields
    have check := hclash.trans (Hub.reconfigurable_eq_false_iff s.hub i pt role slots).symm
    refine ⟨fun clashes => State.onHub_refused hr (fields.trans (if_pos (check.1 clashes))), fun free => ?_⟩
    refine ⟨pt.configured role slots settle, ?_, rfl, fun same => if_pos same⟩
    exact State.onHub_answered hr .ok [] (fields.trans (if_neg fun no => free (check.2 no))) rfl rfl
  · have fields := setInitList_fields (by omega) found ⟨tag, s.hub.link.serial⟩ hl addresses
    refine ⟨fun settable => State.onHub_answered hr .ok [] (fields.trans (if_pos settable)) rfl rfl, fun off fault => ?_⟩
    exact State.onHub_refused hr (fields.trans (if_neg (not_or.2 ⟨off, fault⟩)))

/-! ### START_PORT (R113) -/

/-- What START_PORT hands over for an init entry at a place in the list (R114). -/
def InitEntry.write (e : InitEntry) (place : Nat) : InitWrite := ⟨place, e.addr, e.reg, e.value⟩

theorem mem_enabledWrites_cons (e : InitEntry) (l : List InitEntry) (k : Nat) (w : InitWrite) :
    w ∈ enabledWrites (e :: l) k ↔ (e.enabled = true ∧ w = e.write k) ∨ w ∈ enabledWrites l (k + 1) := by
  cases he : e.enabled <;> simp [enabledWrites, he, InitEntry.write]

/-- The places of the entries handed over count disabled entries (R114). -/
theorem mem_enabledWrites (l : List InitEntry) (w : InitWrite) : ∀ k, w ∈ enabledWrites l k ↔
    ∃ (n : Nat) (e : InitEntry), l[n]? = some e ∧ e.enabled = true ∧ w = e.write (k + n) := by
  induction l with
  | nil => simp [enabledWrites]
  | cons e l ih =>
    intro k
    rw [mem_enabledWrites_cons, ih]
    refine Iff.trans ?_ Nat.or_exists_add_one
    simp [Nat.add_assoc, Nat.add_comm 1]

theorem mem_enabledWrites_iff (l : List InitEntry) (w : InitWrite) : w ∈ enabledWrites l 0 ↔
    ∃ e, l[w.index]? = some e ∧ e.enabled = true ∧ w.addr = e.addr ∧ w.reg = e.reg ∧ w.value = e.value := by
  rw [mem_enabledWrites]
  constructor
  · rintro ⟨n, e, place, enabled, rfl⟩
    exact ⟨e, by simpa [InitEntry.write] using place, enabled, rfl, rfl, rfl⟩
  · rintro ⟨e, place, enabled, addr, reg, value⟩
    refine ⟨w.index, e, place, enabled, ?_⟩
    simp [InitEntry.write, ← addr, ← reg, ← value]

theorem enabledWrites_pairwise (l : List InitEntry) : ∀ k, (enabledWrites l k).Pairwise (fun a b => a.index < b.index) := by
  induction l with
  | nil => exact fun _ => .nil
  | cons e l ih =>
    intro k
    unfold enabledWrites
    split
    · refine .cons (fun w hw => ?_) (ih (k + 1))
      obtain ⟨n, x, -, -, rfl⟩ := (mem_enabledWrites l w (k + 1)).1 hw
      exact Nat.lt_of_lt_of_le (Nat.lt_succ_self k) (Nat.le_add_right (k + 1) n)
    · exact ih (k + 1)

theorem enabledWrites_eq_nil_iff (l : List InitEntry) : ∀ k, enabledWrites l k = [] ↔ ∀ e ∈ l, e.enabled = false := by
  induction l with
  | nil => simp [enabledWrites]
  | cons e l ih =>
    intro k
    cases he : e.enabled <;> simp [enabledWrites, he, ih]

section start

variable {h : Hub} {i : Nat} {pt : Port} (hi : i < 256) (found : h.port i = some pt) (ctx : CommandCtx)

include hi found

theorem startPort_busy (on : pt.state ≠ .off) : startPort h ctx [oneByte i] = h.refuse .busy := by
  simp [startPort, withPort_found hi found, on]

variable (off : pt.state = .off)

include off

theorem startPort_conflict (no : pt.role = .unused ∨ 16 < pt.slots * h.clock.rate.multiple) :
    startPort h ctx [oneByte i] = h.refuse .conflict := by
  simp [startPort, withPort_found hi found, off, no]

variable (used : pt.role ≠ .unused) (rate : pt.slots * h.clock.rate.multiple ≤ 16)

include used rate

theorem startPort_settles (disabled : enabledWrites pt.initList 0 = []) :
    startPort h ctx [oneByte i] = (h.startSettling i pt).accept [oneByte PortState.settling.code] := by
  simp [startPort, withPort_found hi found, off, used, Nat.not_lt.2 rate, disabled]

variable (writes : enabledWrites pt.initList 0 ≠ [])

include writes

theorem startPort_full (full : h.bus.room = false) : startPort h ctx [oneByte i] = h.refuse .full := by
  obtain ⟨w, ws, enabled⟩ := List.exists_cons_of_ne_nil writes
  simp [startPort, withPort_found hi found, off, used, Nat.not_lt.2 rate, enabled, full]

theorem startPort_inits (room : h.bus.room = true) :
    startPort h ctx [oneByte i] = (h.startInit i pt (enabledWrites pt.initList 0)).accept [oneByte PortState.init.code] := by
  obtain ⟨w, ws, enabled⟩ := List.exists_cons_of_ne_nil writes
  simp [startPort, withPort_found hi found, off, used, Nat.not_lt.2 rate, enabled, room]

end start

/-! ### STOP_PORT (R117) -/

theorem JobKind.isInitOf_iff (k : JobKind) (i : Nat) : k.isInitOf i = true ↔ ∃ ws, k = .init i ws false := by
  cases k <;> simp [JobKind.isInitOf]

theorem JobKind.not_isInitOf_iff (k : JobKind) (i : Nat) : (!k.isInitOf i) = true ↔ ∀ ws, k ≠ .init i ws false := by
  rw [Bool.not_eq_true', ← Bool.not_eq_true, JobKind.isInitOf_iff, not_exists]

section detach

variable {b : ControlBus} {i : Nat}

/-- An active INIT job of the port takes the ending mark (R117, R124). -/
theorem ControlBus.detachPort_active {j : Job} {ws : List InitWrite} (ha : b.active = some j) (hk : j.kind = .init i ws false) :
    (b.detachPort i).active = some { j with kind := .init i ws true, ending := true } := by
  simp [ControlBus.detachPort, ha, hk, JobKind.isInitOf, Job.detach]

/-- Any other active job, and an empty active place, stays. -/
theorem ControlBus.detachPort_active_other (ho : ∀ j ws, b.active = some j → j.kind ≠ .init i ws false) :
    (b.detachPort i).active = b.active := by
  cases ha : b.active with
  | none => simp [ControlBus.detachPort, ha]
  | some j =>
    have other : ¬ j.kind.isInitOf i = true := fun is => by
      obtain ⟨ws, hk⟩ := (JobKind.isInitOf_iff _ _).1 is
      exact ho j ws ha hk
    simp [ControlBus.detachPort, ha, other]

end detach

section stop

variable {h : Hub} {i : Nat} {pt : Port} (hi : i < 256) (found : h.port i = some pt) (ctx : CommandCtx)

include hi found

theorem stopPort_off (off : pt.state = .off) : stopPort h ctx [oneByte i] = h.accept [] := by
  simp [stopPort, withPort_found hi found, off]

theorem stopPort_on (on : pt.state ≠ .off) : stopPort h ctx [oneByte i] =
    (((h.withBus (h.bus.detachPort i)).putPort i { pt with state := .off, remaining := none }).postPort i .stopped none 0).accept [] := by
  simp [stopPort, withPort_found hi found, on]

end stop

/-- Settles O30: each clause is one way through a handler; what START_PORT hands over is `enabledWrites`, what STOP_PORT does to the bus
`ControlBus.detachPort`. -/
theorem startAndStopPort : Obligations.StartAndStopPort := by
  intro s tag i pt hr hi hp
  have hi : i < 256 := by omega
  have found : (s.hub.withLink s.hub.link.takeEntry).port i = some pt := hp
  have handsOver : (∃ e ∈ pt.initList, e.enabled = true) → enabledWrites pt.initList 0 ≠ [] := fun ⟨e, mem, enabled⟩ disabled =>
    Bool.false_ne_true (((enabledWrites_eq_nil_iff _ 0).1 disabled e mem).symm.trans enabled)
  refine ⟨fun on => ?_, fun off no => ?_, fun off used rate => ⟨fun disabled => ?_, fun enabled => ⟨fun full => ?_, fun room => ?_⟩⟩,
    fun off => ?_, fun on => ?_⟩
  · exact State.onHub_refused hr (startPort_busy hi found _ on)
  · exact State.onHub_refused hr (startPort_conflict hi found _ off no)
  · exact State.onHub_portState hr hp rfl (startPort_settles hi found _ off used rate ((enabledWrites_eq_nil_iff _ 0).2 disabled))
  · exact State.onHub_refused hr (startPort_full hi found _ off used rate (handsOver enabled) full)
  · refine ⟨enabledWrites pt.initList 0, ?_, enabledWrites_pairwise _ 0, mem_enabledWrites_iff _⟩
    exact State.onHub_portState hr (g := s.hub.withBus (s.hub.bus.add (.init i (enabledWrites pt.initList 0) false))) hp rfl
      (startPort_inits hi found _ off used rate (handsOver enabled) room)
  · exact State.onHub_answered hr .ok [] (stopPort_off hi found _ off) rfl rfl
  · refine ⟨s.hub.bus.detachPort i, ?_, rfl, ⟨fun j => !j.kind.isInitOf i, rfl, fun j => JobKind.not_isInitOf_iff _ i⟩,
      fun j ws => ControlBus.detachPort_active, ControlBus.detachPort_active_other⟩
    exact State.onHub_portState hr (g := s.hub.withBus (s.hub.bus.detachPort i)) hp rfl (stopPort_on hi found _ on)

end Sys2Proof.Machine
end

section
/-! ## Ports at a frame boundary

What each port makes of its two shares of the boundary: its state for the frame with what it yields, and the wire frame it begins. -/

namespace Sys2Proof.Machine

/-! ### Work done for each port in turn -/

/-- Work that touches one port at a time changes a port at its own turn alone. -/
theorem Hub.forEach_port {f : Hub → Nat → Hub} (only : ∀ (g : Hub) {k j : Nat}, k ≠ j → (f g k).port j = g.port j) (h : Hub)
    {a b i : Nat} (hab : a ≤ b) (hi : i < a ∨ b ≤ i) : (forEach b 0 f h).port i = (forEach a 0 f h).port i := by
  induction hab with
  | refl => rfl
  | @step b hab ih =>
    have le : a ≤ b := hab
    rw [forEach_succ_last, Nat.zero_add, only _ (by omega)]
    exact ih (by omega)

/-- A port after work done for each port in turn is the port after its own turn. -/
theorem Hub.forEach_port_turn {f : Hub → Nat → Hub} (only : ∀ (g : Hub) {k j : Nat}, k ≠ j → (f g k).port j = g.port j) (h : Hub)
    {n i : Nat} (hi : i < n) : (forEach n 0 f h).port i = (f (forEach i 0 f h) i).port i := by
  rw [Hub.forEach_port only h (Nat.succ_le_of_lt hi) (.inl (Nat.lt_succ_self i)), forEach_succ_last, Nat.zero_add]

/-! ### A port's first share: its state for the frame, and what it yields (R115, R119) -/

/-- The port in its state for the frame (R115). -/
def Port.advanced (pt : Port) : Port :=
  match pt.state, pt.remaining with
  | .settling, some 0 => pt.enterRunning
  | .settling, some (k + 1) => { pt with remaining := some k }
  | _, _ => pt

section advanced

variable {pt : Port}

theorem Port.advanced_settled (hs : pt.state = .settling) (hr : pt.remaining = some 0) : pt.advanced = pt.enterRunning := by
  simp [Port.advanced, hs, hr]

theorem Port.advanced_settling {k : Nat} (hs : pt.state = .settling) (hr : pt.remaining = some (k + 1)) :
    pt.advanced = { pt with remaining := some k } := by
  simp [Port.advanced, hs, hr]

theorem Port.advanced_other (hs : pt.state = .settling → pt.remaining = none) : pt.advanced = pt := by
  unfold Port.advanced
  split
  next state zero => exact nomatch (hs state).symm.trans zero
  next state succ => exact nomatch (hs state).symm.trans succ
  next => rfl

/-- The three ways a port can come to a boundary. -/
theorem Port.settle_cases (pt : Port) : (pt.state = .settling ∧ pt.remaining = some 0) ∨
    (∃ k, pt.state = .settling ∧ pt.remaining = some (k + 1)) ∨ (pt.state = .settling → pt.remaining = none) := by
  match pt.remaining with
  | none => simp
  | some 0 => simp [Decidable.em]
  | some (k + 1) => simp [Decidable.em]

/-- The state for the frame changes the state and the settle remaining alone. -/
theorem Port.advanced_keeps (pt : Port) : pt.advanced.role = pt.role ∧ pt.advanced.slots = pt.slots ∧ pt.advanced.settle = pt.settle ∧
    pt.advanced.initList = pt.initList ∧ pt.advanced.failure = pt.failure ∧ pt.advanced.clocked = pt.clocked := by
  obtain ⟨hs, hr⟩ | ⟨k, hs, hr⟩ | hs := pt.settle_cases
  · rw [Port.advanced_settled hs hr]
    exact ⟨rfl, rfl, rfl, rfl, rfl, rfl⟩
  · rw [Port.advanced_settling hs hr]
    exact ⟨rfl, rfl, rfl, rfl, rfl, rfl⟩
  · rw [Port.advanced_other hs]
    exact ⟨rfl, rfl, rfl, rfl, rfl, rfl⟩

end advanced

section shares

variable {h : Hub} {i : Nat} {pt : Port}

theorem Hub.settleStep_settled (found : h.port i = some pt) (hs : pt.state = .settling) (hr : pt.remaining = some 0) (p : Nat) :
    h.settleStep p i = (h.putPort i pt.enterRunning).postAt (p + 1) (.portState i .running .settled none 0) := by
  simp [Hub.settleStep, found, hs, hr]

theorem Hub.settleStep_settling (found : h.port i = some pt) {k : Nat} (hs : pt.state = .settling) (hr : pt.remaining = some (k + 1))
    (p : Nat) : h.settleStep p i = h.putPort i { pt with remaining := some k } := by
  simp [Hub.settleStep, found, hs, hr]

theorem Hub.settleStep_other (found : h.port i = some pt) (hs : pt.state = .settling → pt.remaining = none) (p : Nat) :
    h.settleStep p i = h := by
  simp only [Hub.settleStep, found]
  split
  next state zero => exact nomatch (hs state).symm.trans zero
  next state succ => exact nomatch (hs state).symm.trans succ
  next => rfl

theorem Hub.settleStep_port (found : h.port i = some pt) (p : Nat) : (h.settleStep p i).port i = some pt.advanced := by
  obtain ⟨hs, hr⟩ | ⟨k, hs, hr⟩ | hs := pt.settle_cases
  · rw [Hub.settleStep_settled found hs hr, Port.advanced_settled hs hr]
    exact Hub.port_putPort found
  · rw [Hub.settleStep_settling found hs hr, Port.advanced_settling hs hr]
    exact Hub.port_putPort found
  · rw [Hub.settleStep_other found hs, Port.advanced_other hs, found]

/-- A port after its first share of the boundary. -/
theorem Hub.portBegins_port (found : h.port i = some pt) (p : Nat) (wire : List (List SlotWord)) :
    ∃ draw, (h.portBegins p wire i).port i = some (pt.advanced.yieldFrame draw i (wire.getD i [])) := by
  have advanced := Hub.settleStep_port found p
  refine ⟨(h.settleStep p i).draws, ?_⟩
  unfold Hub.portBegins
  rw [advanced]
  exact Hub.port_putPort advanced

theorem Hub.portBegins_link (h : Hub) (p : Nat) (wire : List (List SlotWord)) (i : Nat) :
    (h.portBegins p wire i).link = (h.settleStep p i).link := by
  unfold Hub.portBegins
  split <;> rfl

section yields

variable (draw : Nat) (w : List SlotWord) (capture : pt.role = .capture)

include capture

theorem Port.yieldFrame_capture : (pt.yieldFrame draw i w).yielded = (numbers 0 pt.slots).map (pt.yieldSlot draw i w) := if_pos capture

theorem Port.yieldFrame_shiftedIn (running : pt.state = .running) (clocked : pt.clocked = true) :
    (pt.yieldFrame draw i w).yielded = (numbers 0 pt.slots).map (fun k => sampleOfSlot (w.getD k 0)) := by
  rw [Port.yieldFrame_capture draw w capture]
  exact List.map_congr_left fun k _ => (if_pos running).trans (if_pos clocked)

theorem Port.yieldFrame_idle (idle : pt.state ≠ .running) : (pt.yieldFrame draw i w).yielded = List.replicate pt.slots 0 := by
  have zero : ∀ k ∈ numbers 0 pt.slots, pt.yieldSlot draw i w k = 0 := fun _ _ => if_neg idle
  rw [Port.yieldFrame_capture draw w capture, List.map_congr_left zero, List.map_const', numbers_length]

end yields

/-! ### A port's second share: the wire frame it begins (R109, R118) -/

/-- The port with its clocks and its data line set for the wire frame that begins. -/
def Port.begins (pt : Port) (settled : Nat → Sample) : Port :=
  { pt with clocked := decide (pt.state ≠ .off), sdOut := pt.shiftOut settled }

section shiftOut

variable (settled : Nat → Sample) (playback : pt.role = .playback)

include playback

theorem Port.shiftOut_running (running : pt.state = .running) :
    pt.shiftOut settled = (numbers 0 pt.slots).map (fun k => slotOf (settled k)) := by
  simp [Port.shiftOut, playback, running]

theorem Port.shiftOut_off (off : pt.state = .off) : pt.shiftOut settled = [] := by
  simp [Port.shiftOut, playback, off]

theorem Port.shiftOut_waiting (idle : pt.state ≠ .running) (on : pt.state ≠ .off) : pt.shiftOut settled = List.replicate pt.slots 0 := by
  have zeros : (numbers 0 pt.slots).map (fun _ => (0 : SlotWord)) = List.replicate pt.slots 0 := by
    rw [List.map_const', numbers_length]
  rw [Port.shiftOut, playback]
  split
  next running => exact absurd running idle
  next off => exact absurd off on
  next => exact zeros
  next other _ _ => exact (other rfl).elim

end shiftOut

/-- One port's share of `portsShiftOut`. -/
def Hub.portShiftsOut (h : Hub) (i : Nat) : Hub :=
  match h.port i with
  | none => h
  | some pt => h.putPort i (pt.begins fun k => h.engine.settledAt ⟨i, k⟩)

theorem Hub.portsShiftOut_eq (h : Hub) : h.portsShiftOut = forEach 6 0 Hub.portShiftsOut h := rfl

theorem Hub.portShiftsOut_port_ne (h : Hub) {k j : Nat} (hkj : k ≠ j) : (h.portShiftsOut k).port j = h.port j := by
  unfold Hub.portShiftsOut
  split
  · rfl
  · exact Hub.port_putPort_ne hkj _

theorem Hub.portShiftsOut_engine (h : Hub) (k : Nat) : (h.portShiftsOut k).engine = h.engine := by
  unfold Hub.portShiftsOut
  split <;> rfl

/-- A port after the ports have begun their wire frames. -/
theorem Hub.portsShiftOut_port (hi : i < 6) (found : h.port i = some pt) :
    h.portsShiftOut.port i = some (pt.begins fun k => h.engine.settledAt ⟨i, k⟩) := by
  have before : (forEach i 0 Hub.portShiftsOut h).port i = some pt :=
    (Hub.forEach_port Hub.portShiftsOut_port_ne h (Nat.zero_le i) (.inr (Nat.le_refl i))).trans found
  have engine : (forEach i 0 Hub.portShiftsOut h).engine = h.engine :=
    forEach_keeps (P := fun g => g.engine = h.engine) (fun g k hg => (g.portShiftsOut_engine k).trans hg) _ _ h rfl
  rw [Hub.portsShiftOut_eq, Hub.forEach_port_turn Hub.portShiftsOut_port_ne h hi, Hub.portShiftsOut, before, engine]
  exact Hub.port_putPort before

end shares

/-! ### The boundary, with the cues due at it -/

/-- The hub as the boundary comes to port k's first share. -/
def Hub.portsUpTo (h : Hub) (w : List (List SlotWord)) (k : Nat) : Hub := forEach k 0 (Hub.portBegins h.clock.n w) h.advanceN

/-- The hub as the ports come to begin their wire frames. -/
def Hub.beforeShiftOut (h : Hub) (m : Nat) (w : List (List SlotWord)) : Hub :=
  ((((((h.stage1 w).fireDue h.clock.n).outputsAtBoundary m).metersPeriodEnd h.clock.n).talliesAtBoundary h.clock.n).settlePlay
    h.clock.n).captureWrite h.clock.n

theorem Hub.Within.portBegins {bs : List Block} {h g : Hub} (hp : Block.ports ∈ bs) (hl : Block.link ∈ bs) (v : Hub.Within bs h g) (p : Nat)
    (w : List (List SlotWord)) (k : Nat) : Hub.Within bs h (g.portBegins p w k) := by
  have stepped := v.settleStep hp hl p k
  unfold Hub.portBegins
  split
  · exact stepped
  · exact stepped.putPort hp _ _

section boundary

variable (h : Hub) {i : Nat} {pt : Port} (m : Nat) (w : List (List SlotWord))

theorem Hub.portsUpTo_succ (k : Nat) : h.portsUpTo w (k + 1) = (h.portsUpTo w k).portBegins h.clock.n w k := by
  unfold Hub.portsUpTo
  rw [forEach_succ_last, Nat.zero_add]

theorem Hub.portsUpTo_found (found : h.port i = some pt) : (h.portsUpTo w i).port i = some pt :=
  (Hub.forEach_port (fun _ _ _ hne => Hub.portBegins_port_ne hne _ w) h.advanceN (Nat.zero_le i) (.inr (Nat.le_refl i))).trans found

theorem Hub.portsUpTo_reports (k : Nat) : Link.Reports h.link (h.portsUpTo w k).link :=
  have within : Hub.Within [.ports, .link] h.advanceN (h.portsUpTo w k) :=
    Hub.Within.forEach (fun _ j v => v.portBegins (by decide) (by decide) _ w j) k 0 (Hub.Within.rfl' _ _)
  within.linkState (by decide)

/-- A port after the ports' first share. -/
theorem Hub.stage1_port (hi : i < 6) (found : h.port i = some pt) :
    ∃ draw, (h.stage1 w).port i = some (pt.advanced.yieldFrame draw i (w.getD i [])) := by
  have turn : (h.stage1 w).port i = ((h.portsUpTo w i).portBegins h.clock.n w i).port i :=
    Hub.forEach_port_turn (fun _ _ _ hne => Hub.portBegins_port_ne hne _ w) h.advanceN hi
  rw [turn]
  exact Hub.portBegins_port (h.portsUpTo_found w found) _ w

/-- Between the ports' two shares only the blocks that cues reach change. -/
theorem Hub.Within.beforeShiftOut {bs : List Block} {g : Hub} (hb : ∀ x ∈ cueBlocks, x ∈ bs) (v : Hub.Within bs g (h.stage1 w)) :
    Hub.Within bs g (h.beforeShiftOut m w) :=
  (((((v.fireDue hb _).outputsAtBoundary (hb _ (by decide)) m).metersPeriodEnd (hb _ (by decide)) (hb _ (by decide)) (hb _ (by decide))
    (hb _ (by decide)) _).talliesAtBoundary (hb _ (by decide)) _).settlePlay (hb _ (by decide)) (hb _ (by decide)) _).captureWrite
      (hb _ (by decide)) (hb _ (by decide)) _

section runs

variable (hs : h.clock.switching = false)

include hs

theorem Hub.frameBoundary_shifts : h.frameBoundary m w = ((h.beforeShiftOut m w).portsShiftOut.metersSample h.clock.n).drawn := by
  unfold Hub.frameBoundary
  rw [if_neg (by simp [hs])]
  rfl

/-- A port after the boundary, whatever cues were due. -/
theorem Hub.frameBoundary_port (hi : i < 6) (found : h.port i = some pt) : ∃ draw, (h.frameBoundary m w).port i =
    some ((pt.advanced.yieldFrame draw i (w.getD i [])).begins fun k => (h.frameBoundary m w).engine.settledAt ⟨i, k⟩) := by
  obtain ⟨draw, first⟩ := h.stage1_port w hi found
  have before : (h.beforeShiftOut m w).port i = some (pt.advanced.yieldFrame draw i (w.getD i [])) := by
    rw [Hub.port, ((Hub.Within.rfl' cueBlocks _).beforeShiftOut h m w (fun _ hx => hx)).ports (by decide)]
    exact first
  have sampled : Hub.Within [.meters, .link, .draws] (h.beforeShiftOut m w).portsShiftOut (h.frameBoundary m w) := by
    rw [h.frameBoundary_shifts m w hs]
    exact ((Hub.Within.rfl' _ _).metersSample (by decide) (by decide) _).drawn (by decide)
  have engine : (h.frameBoundary m w).engine = (h.beforeShiftOut m w).engine :=
    (sampled.engine (by decide)).trans (((Hub.Within.rfl' [.ports] _).portsShiftOut (by decide)).engine (by decide))
  refine ⟨draw, ?_⟩
  rw [Hub.port, sampled.ports (by decide), engine]
  exact Hub.portsShiftOut_port hi before

/-- What comes after the first shares of k ports only posts. -/
theorem Hub.frameBoundary_reports {k : Nat} (hk : k ≤ 6) : Link.Reports (h.portsUpTo w k).link (h.frameBoundary m w).link := by
  have rest : h.stage1 w = forEach (6 - k) k (Hub.portBegins h.clock.n w) (h.portsUpTo w k) := by
    have all := forEach_append (Hub.portBegins h.clock.n w) k (6 - k) 0 h.advanceN
    rw [Nat.add_sub_cancel' hk, Nat.zero_add] at all
    exact all
  have first : Hub.Within (.ports :: .draws :: cueBlocks) (h.portsUpTo w k) (h.stage1 w) := by
    rw [rest]
    exact Hub.Within.forEach (fun _ j v => v.portBegins (by decide) (by decide) _ w j) _ _ (Hub.Within.rfl' _ _)
  have within : Hub.Within (.ports :: .draws :: cueBlocks) (h.portsUpTo w k) (h.frameBoundary m w) := by
    rw [h.frameBoundary_shifts m w hs]
    exact (((first.beforeShiftOut h m w fun x hx => .tail _ (.tail _ hx)).portsShiftOut (by decide)).metersSample (by decide) (by decide)
      _).drawn (by decide)
  exact within.linkState (by decide)

/-- A port that has settled posts PORT_STATE (R115, R120). -/
theorem Hub.frameBoundary_settled (hi : i < 6) (found : h.port i = some pt) (state : pt.state = .settling) (zero : pt.remaining = some 0) :
    ∃ l : Link, Link.Reports h.link l ∧
      Link.Reports (l.post (h.clock.n + 1) (.portState i .running .settled none 0)) (h.frameBoundary m w).link := by
  refine ⟨(h.portsUpTo w i).link, h.portsUpTo_reports w i, ?_⟩
  have after := h.frameBoundary_reports m w hs (Nat.succ_le_of_lt hi)
  rw [Hub.portsUpTo_succ, Hub.portBegins_link, Hub.settleStep_settled (h.portsUpTo_found w found) state zero] at after
  exact after

end runs

end boundary

/-- PORT_SETTLED takes the port's own share of the boundary alone (R115). -/
theorem exec_portSettled {s : State} {i : Nat} {pt : Port} (hf : s.hub.framesRun) (found : s.hub.port i = some pt) (state : pt.state = .settling)
    (zero : pt.remaining = some 0) : exec (.portSettled i) s =
      s.becomes ((s.hub.putPort i pt.enterRunning).postAt (s.hub.clock.n + 1) (.portState i .running .settled none 0)) := by
  have own : s.hub.portSettled i = s.hub.settleStep s.hub.clock.n i := by
    simp [Hub.portSettled, found, state, zero, hf.2]
  rw [← Hub.settleStep_settled found state zero, ← own]
  exact State.onLive_becomes hf.1 fun h => h.portSettled i

/-- Settles O31: the port after the boundary is `Port.begins` of `Port.yieldFrame` of `Port.advanced`, and each clause is read off one of
the three. -/
theorem portsAtABoundary : Obligations.PortsAtABoundary := by
  intro s m wire i pt hf hi found
  have running : s.hub.clock.switching = false := hf.2
  obtain ⟨draw, after⟩ := s.hub.frameBoundary_port m wire running hi found
  obtain ⟨role, slots, settle, initList, failure, clocked⟩ := pt.advanced_keeps
  refine ⟨exec_portSettled hf found, _, _, exec_frameBoundary hf m wire, after, role, slots, settle, initList, failure, rfl, rfl,
    fun state zero => ?_, fun k state left => ?_, fun other => ?_, fun playback => ?_, fun capture => ?_⟩
  · have settled := Port.advanced_settled state zero
    exact ⟨congrArg Port.state settled, congrArg Port.remaining settled, s.hub.frameBoundary_settled m wire running hi found state zero⟩
  · have settling := Port.advanced_settling state left
    exact ⟨(congrArg Port.state settling).trans state, congrArg Port.remaining settling⟩
  · have same := Port.advanced_other (pt := pt) fun state => absurd state other
    have state : pt.advanced.state = pt.state := congrArg Port.state same
    have remaining : pt.advanced.remaining = pt.remaining := congrArg Port.remaining same
    exact ⟨state, remaining⟩
  · rw [← slots]
    rw [← role] at playback
    exact ⟨Port.shiftOut_running _ playback, Port.shiftOut_off _ playback, Port.shiftOut_waiting _ playback⟩
  · rw [← slots, ← clocked]
    rw [← role] at capture
    refine ⟨Port.yieldFrame_shiftedIn draw _ capture, fun _ _ => ?_, Port.yieldFrame_idle draw _ capture⟩
    exact (congrArg List.length (Port.yieldFrame_capture draw _ capture)).trans (by simp)

end Sys2Proof.Machine
end
